-- ==== Sys2Proof/Word.lean ====
section
/-! DEFINITION. The word types of UBX-CORE (spec/00_scope.md R11): bytes, the wider unsigned words, and observer
identities. -/

namespace Sys2Proof

/-- A byte: 8 bits, unsigned unless stated otherwise (R11). -/
abbrev Byte := BitVec 8

/-- `u16` of R11. -/
abbrev U16 := BitVec 16

/-- `u32` of R11. -/
abbrev U32 := BitVec 32

/-- An observer identity (spec/10_state.md R28): "an opaque type the model takes as a parameter". The engine only
stores and hands on such a value, so any countable set of names will do (log 4, DESIGN CHOICE, safe). -/
abbrev ObserverId := Nat

end Sys2Proof
end

