-- ==== Sys2Proof/Config.lean ====
section
/-! DEFINITION. What an implementation of UBX-CORE fixes: its two parameters (spec/00_scope.md R6, R8) and the constants the
source fixes (R7, R9). There is no opaque free value: every open value of this hardware is a draw of the environment and
stands in State (log 2). -/

namespace Sys2Proof

/-- The two parameters of an implementation. R6: `0 <= MAX_PAYLOAD <= 65535`. R8 and spec/60_exceptions.md R162:
`CLOCK_W >= 13`. Both bounds are carried with the data. -/
structure Config where
  /-- MAX_PAYLOAD: the largest payload the parser accepts, and the capacity of PBUF (R6). -/
  maxPayload : Nat
  /-- CLOCK_W: the width in bits of a `Now()` value (R8). -/
  clockW : Nat
  maxPayload_le : maxPayload ≤ 65535
  clockW_ge : 13 ≤ clockW
  deriving DecidableEq, Repr

/-- The reference values of R6 and R8 (256 and 32), which spec/95_test_vectors.md uses (log 3, DESIGN CHOICE for
reset only: every statement ranges over every Config). -/
def Config.reference : Config := ⟨256, 32, by decide, by decide⟩

/-- TIMEOUT_MS (R7). -/
def timeoutMs : Nat := 5000

/-- HDR1 (R9). -/
def hdr1 : Byte := 0xB5#8

/-- HDR2 (R9). -/
def hdr2 : Byte := 0x62#8

/-- The missing-extension sentinel "N/A", bytes 4E 2F 41 (R9, log 21). -/
def notAvailable : List Byte := [0x4E#8, 0x2F#8, 0x41#8]

end Sys2Proof
end

