-- ==== Sys2Proof/Syntax.lean ====
section
/-! DEFINITION. The instructions of UBX-CORE: one constructor of `Instr` per row of spec/opcode_table.json, with the operands
spec/30_encoding.md gives the row. -/

namespace Sys2Proof

/-- The fifteen host commands as names, without operands (spec/30_encoding.md R71). -/
inductive HostOp where
  | bind | attachObserver | detachObserver | setChecksumPolicy | initEngine | process
  | subscribeStatus | subscribeTimeutc | requestVersion | requestStatus | requestTimeutc
  | readVersion | readTimeutc | readStatus | readInitialized
  deriving DecidableEq, Repr

/-- The seven internal operations as names, without operands (spec/30_encoding.md R72). -/
inductive InternalOp where
  | setMessageRate | pollMessage | disableDefaultNmea | waitPending | feed | sendFrame | dispatch
  deriving DecidableEq, Repr

/-- The messages that HANDLE tells apart (spec/44_dispatch.md R136). -/
inductive FrameKind where
  | ackAck | ackNack | monVer | navStatus | navTimeutc | other
  deriving DecidableEq, Repr

/-- The encoding spaces (spec/30_encoding.md, its opening and R70 to R72): host commands, internal codes, frames received on
RX, frames written to TX. -/
inductive Space where
  | host | internal | rx | tx
  deriving DecidableEq, Repr

/-- One unit of an encoded operation. R65 gives a host command an opcode byte, an operand byte A, and "one ObserverId", to
which it gives no byte width. An internal FEED carries "a byte count", to which R72 gives no width either (log 4, log 25). -/
inductive Tok where
  | byte (b : Byte)
  | obs (o : ObserverId)
  | count (n : Nat)
  deriving DecidableEq, Repr

/-- The instructions. The first fifteen are host commands (R71), the next seven internal operations (R72), the last ten
frames (R70). A received frame carries its payload and the two checksum bytes as received; a transmitted frame's checksum
is computed (spec/42_codec.md R102), so it carries none. -/
inductive Instr where
  -- host commands
  | bind
  | attachObserver (o : ObserverId)
  | detachObserver
  | setChecksumPolicy (p : Byte)
  | initEngine
  | process
  | subscribeStatus (r : Byte)
  | subscribeTimeutc (r : Byte)
  | requestVersion
  | requestStatus
  | requestTimeutc
  | readVersion
  | readTimeutc
  | readStatus
  | readInitialized
  -- internal operations
  | setMessageRate (c i r : Byte)
  | pollMessage (c i : Byte)
  | disableDefaultNmea
  | waitPending
  | feed (n : Nat)
  | sendFrame (c i : Byte) (payload : List Byte)
  | dispatch
  -- frames
  | rxAckAck (payload : List Byte) (ckA ckB : Byte)
  | rxAckNack (payload : List Byte) (ckA ckB : Byte)
  | rxMonVer (payload : List Byte) (ckA ckB : Byte)
  | rxNavStatus (payload : List Byte) (ckA ckB : Byte)
  | rxNavTimeutc (payload : List Byte) (ckA ckB : Byte)
  | txCfgMsg (c i r : Byte)
  | txMonVerPoll
  | txNavStatusPoll
  | txNavTimeutcPoll
  | rxUbxOther (cls id : Byte) (payload : List Byte) (ckA ckB : Byte)
  deriving DecidableEq, Repr

end Sys2Proof
end

