-- ==== Sys2Proof/Machine/Frame.lean ====
section
/-! DEFINITION. The wire frame (spec/30_encoding.md R60, R61) and what is computed from its bytes alone: byte order (R43, R73),
the ChecksumEngine's `Checksum` (spec/40_checksum.md R81), the MessageCodec's ENCODE (spec/42_codec.md R102), and the key of a
frame (spec/44_dispatch.md R136). -/

namespace Sys2Proof.Machine

/-- `v[7:0]` of a 16-bit word. -/
def loByte (v : U16) : Byte := v.extractLsb' 0 8

/-- `v[15:8]` of a 16-bit word. -/
def hiByte (v : U16) : Byte := v.extractLsb' 8 8

/-- `{hi, lo}` (R11): `hi * 256 + lo`, the frame length's assembly (R73). -/
def wordOfBytes (hi lo : Byte) : U16 := hi ++ lo

/-- One turn of the loop of `Checksum` (spec/40_checksum.md R81); `BitVec` addition wraps modulo 256. -/
def checksumStep (acc : Byte × Byte) (b : Byte) : Byte × Byte :=
  let a := acc.1 + b
  (a, acc.2 + a)

/-- The bytes that enter the checksum, in order: class, id, length low, length high, payload (R81). -/
def checksumInput (cls id : Byte) (len : U16) (payload : List Byte) : List Byte :=
  [cls, id, loByte len, hiByte len] ++ payload

/-- `Checksum(cls, id, len, payload)` (R81). -/
def checksum (cls id : Byte) (len : U16) (payload : List Byte) : Byte × Byte :=
  (checksumInput cls id len payload).foldl checksumStep (0#8, 0#8)

/-- A frame's bytes in layout order, with the two checksum bytes given (R60). -/
def wireFrame (cls id : Byte) (payload : List Byte) (ckA ckB : Byte) : List Byte :=
  let len := BitVec.ofNat 16 payload.length
  [hdr1, hdr2, cls, id, loByte len, hiByte len] ++ payload ++ [ckA, ckB]

/-- `ENCODE(c, i, p)` (spec/42_codec.md R102), for `len(p) <= 65535`. -/
def encodeFrame (cls id : Byte) (payload : List Byte) : List Byte :=
  let ck := checksum cls id (BitVec.ofNat 16 payload.length) payload
  wireFrame cls id payload ck.1 ck.2

/-- The pieces of a whole frame: class, id, payload, checksum A and B. `none` when the bytes are no frame of R60. -/
def splitFrame : List Byte → Option (Byte × Byte × List Byte × Byte × Byte)
  | s1 :: s2 :: cls :: id :: l0 :: l1 :: rest =>
    let len := (wordOfBytes l1 l0).toNat
    match rest.drop len with
    | [ckA, ckB] => if s1 = hdr1 ∧ s2 = hdr2 then some (cls, id, rest.take len, ckA, ckB) else none
    | _ => none
  | _ => none

/-- HANDLE's table of keys (spec/44_dispatch.md R136; spec/30_encoding.md R70): a frame matches on both bytes. -/
def frameKind (cls id : Byte) : FrameKind :=
  if cls = 0x05#8 ∧ id = 0x01#8 then .ackAck
  else if cls = 0x05#8 ∧ id = 0x00#8 then .ackNack
  else if cls = 0x0A#8 ∧ id = 0x04#8 then .monVer
  else if cls = 0x01#8 ∧ id = 0x03#8 then .navStatus
  else if cls = 0x01#8 ∧ id = 0x21#8 then .navTimeutc
  else .other

end Sys2Proof.Machine
end

