-- ==== Sys2Proof/WellFormed.lean ====
section
/-! DEFINITION. The checks an instruction passes that its type does not make: the operand of SET_CHECKSUM_POLICY
(spec/30_encoding.md R74), the length of a payload (R61, spec/42_codec.md R102), and the key of an "other" frame (R70). -/

namespace Sys2Proof

/-- R61, R102: a frame's length field has 16 bits. -/
abbrev payloadFits (payload : List Byte) : Prop := payload.length ≤ 65535

/-- The well-formed instructions. -/
abbrev Instr.WellFormed : Instr → Prop
  | .setChecksumPolicy p => p = 0#8 ∨ p = 1#8
  | .sendFrame _ _ payload => payloadFits payload
  | .rxAckAck payload _ _ => payloadFits payload
  | .rxAckNack payload _ _ => payloadFits payload
  | .rxMonVer payload _ _ => payloadFits payload
  | .rxNavStatus payload _ _ => payloadFits payload
  | .rxNavTimeutc payload _ _ => payloadFits payload
  | .rxUbxOther cls id payload _ _ => payloadFits payload ∧ Machine.frameKind cls id = .other
  | .bind | .attachObserver _ | .detachObserver | .initEngine | .process | .subscribeStatus _
  | .subscribeTimeutc _ | .requestVersion | .requestStatus | .requestTimeutc | .readVersion
  | .readTimeutc | .readStatus | .readInitialized | .setMessageRate _ _ _ | .pollMessage _ _
  | .disableDefaultNmea | .waitPending | .feed _ | .dispatch | .txCfgMsg _ _ _ | .txMonVerPoll
  | .txNavStatusPoll | .txNavTimeutcPoll => True

end Sys2Proof
end

