-- ==== Sys2Proof/Decode.lean ====
section
/-! DEFINITION. Decoding, total on any tokens and rejecting by name, and after it the encoder, both written from
spec/30_encoding.md R60, R62, R63, R65 and R70 to R74. -/

namespace Sys2Proof

open Machine

/-- Why tokens encode no operation. -/
inductive DecodeError where
  /-- No token at all, or the first is no byte. -/
  | noOpcode
  /-- HOST: an opcode R71 does not list, 0x00, the gaps and 0x80 to 0x86 included (R74). -/
  | unlistedOpcode (op : Byte)
  /-- HOST: SET_CHECKSUM_POLICY with an operand above 1 (R74). -/
  | illegalOperand (op a : Byte)
  /-- A listed opcode whose operands are not those R65 gives it (log 5). -/
  | malformedOperands (op : Byte)
  /-- INTERNAL: a code R72 does not list. -/
  | unlistedCode (code : Byte)
  /-- INTERNAL: SEND_FRAME with a payload longer than a length field can say (R61, spec/42_codec.md R102). -/
  | payloadTooLong (code : Byte)
  /-- RX or TX: the tokens are not the bytes of one frame of R60. -/
  | notAFrame
  /-- TX: a frame UBX-CORE never sends (R70). -/
  | notSent (cls id : Byte)
  /-- TX: the checksum bytes are not those of R102. -/
  | wrongChecksum
  deriving DecidableEq, Repr

/-- The host opcode map (R71). -/
def HostOp.opcode : HostOp → Byte
  | .bind => 0x01#8
  | .attachObserver => 0x02#8
  | .detachObserver => 0x03#8
  | .setChecksumPolicy => 0x04#8
  | .initEngine => 0x10#8
  | .process => 0x11#8
  | .subscribeStatus => 0x12#8
  | .subscribeTimeutc => 0x13#8
  | .requestVersion => 0x20#8
  | .requestStatus => 0x21#8
  | .requestTimeutc => 0x22#8
  | .readVersion => 0x30#8
  | .readTimeutc => 0x31#8
  | .readStatus => 0x32#8
  | .readInitialized => 0x33#8

/-- Every host command, in R71's order. -/
def HostOp.all : List HostOp :=
  [.bind, .attachObserver, .detachObserver, .setChecksumPolicy, .initEngine, .process, .subscribeStatus,
   .subscribeTimeutc, .requestVersion, .requestStatus, .requestTimeutc, .readVersion, .readTimeutc, .readStatus,
   .readInitialized]

/-- The host command with opcode `b`, if R71 lists one. -/
def HostOp.ofOpcode (b : Byte) : Option HostOp := HostOp.all.find? (fun op => op.opcode == b)

/-- The internal codes (R72). -/
def InternalOp.code : InternalOp → Byte
  | .setMessageRate => 0x80#8
  | .pollMessage => 0x81#8
  | .disableDefaultNmea => 0x82#8
  | .waitPending => 0x83#8
  | .feed => 0x84#8
  | .sendFrame => 0x85#8
  | .dispatch => 0x86#8

/-- Every internal operation, in R72's order. -/
def InternalOp.all : List InternalOp :=
  [.setMessageRate, .pollMessage, .disableDefaultNmea, .waitPending, .feed, .sendFrame, .dispatch]

/-- The internal operation with code `b`, if R72 lists one. -/
def InternalOp.ofCode (b : Byte) : Option InternalOp := InternalOp.all.find? (fun op => op.code == b)

/-- The tokens as bytes, if every one is a byte. -/
def tokBytes : List Tok → Option (List Byte)
  | [] => some []
  | .byte b :: rest => (tokBytes rest).map (b :: ·)
  | _ :: _ => none

/-- An operation without operands. -/
def noOperands (code : Byte) (i : Instr) : List Tok → Except DecodeError Instr
  | [] => .ok i
  | _ :: _ => .error (.malformedOperands code)

/-- An operation with one operand byte. -/
def oneByte (code : Byte) (mk : Byte → Except DecodeError Instr) : List Tok → Except DecodeError Instr
  | [.byte a] => mk a
  | _ => .error (.malformedOperands code)

/-- An operation with one ObserverId. -/
def oneObserver (code : Byte) (mk : ObserverId → Instr) : List Tok → Except DecodeError Instr
  | [.obs o] => .ok (mk o)
  | _ => .error (.malformedOperands code)

/-- A host command's operands (R65, R71, R74). -/
def decodeHostOperands (op : HostOp) (operands : List Tok) : Except DecodeError Instr :=
  match op with
  | .bind => noOperands op.opcode .bind operands
  | .attachObserver => oneObserver op.opcode .attachObserver operands
  | .detachObserver => noOperands op.opcode .detachObserver operands
  | .setChecksumPolicy =>
    oneByte op.opcode
      (fun p => if p = 0#8 ∨ p = 1#8 then .ok (.setChecksumPolicy p) else .error (.illegalOperand op.opcode p)) operands
  | .initEngine => noOperands op.opcode .initEngine operands
  | .process => noOperands op.opcode .process operands
  | .subscribeStatus => oneByte op.opcode (fun r => .ok (.subscribeStatus r)) operands
  | .subscribeTimeutc => oneByte op.opcode (fun r => .ok (.subscribeTimeutc r)) operands
  | .requestVersion => noOperands op.opcode .requestVersion operands
  | .requestStatus => noOperands op.opcode .requestStatus operands
  | .requestTimeutc => noOperands op.opcode .requestTimeutc operands
  | .readVersion => noOperands op.opcode .readVersion operands
  | .readTimeutc => noOperands op.opcode .readTimeutc operands
  | .readStatus => noOperands op.opcode .readStatus operands
  | .readInitialized => noOperands op.opcode .readInitialized operands

/-- A command on the HOST port (R65, R71, R74). -/
def decodeHost : List Tok → Except DecodeError Instr
  | .byte b :: operands =>
    match HostOp.ofOpcode b with
    | some op => decodeHostOperands op operands
    | none => .error (.unlistedOpcode b)
  | _ => .error .noOpcode

/-- SEND_FRAME's payload bytes (R72): no more than a length field can say. -/
def decodePayload (code : Byte) (c i : Byte) (payload : List Tok) : Except DecodeError Instr :=
  match tokBytes payload with
  | some bytes => if bytes.length ≤ 65535 then .ok (.sendFrame c i bytes) else .error (.payloadTooLong code)
  | none => .error (.malformedOperands code)

/-- An internal operation's operands (R72). -/
def decodeInternalOperands (op : InternalOp) (operands : List Tok) : Except DecodeError Instr :=
  match op with
  | .setMessageRate =>
    match operands with
    | [.byte c, .byte i, .byte r] => .ok (.setMessageRate c i r)
    | _ => .error (.malformedOperands op.code)
  | .pollMessage =>
    match operands with
    | [.byte c, .byte i] => .ok (.pollMessage c i)
    | _ => .error (.malformedOperands op.code)
  | .disableDefaultNmea => noOperands op.code .disableDefaultNmea operands
  | .waitPending => noOperands op.code .waitPending operands
  | .feed =>
    match operands with
    | [.count n] => .ok (.feed n)
    | _ => .error (.malformedOperands op.code)
  | .sendFrame =>
    match operands with
    | .byte c :: .byte i :: payload => decodePayload op.code c i payload
    | _ => .error (.malformedOperands op.code)
  | .dispatch => noOperands op.code .dispatch operands

/-- An internal operation (R72). -/
def decodeInternal : List Tok → Except DecodeError Instr
  | .byte b :: operands =>
    match InternalOp.ofCode b with
    | some op => decodeInternalOperands op operands
    | none => .error (.unlistedCode b)
  | _ => .error .noOpcode

/-- The row of R70 a received frame belongs to; no (class, id) is illegal (R75). -/
def rxInstr (cls id : Byte) (payload : List Byte) (ckA ckB : Byte) : Instr :=
  match frameKind cls id with
  | .ackAck => .rxAckAck payload ckA ckB
  | .ackNack => .rxAckNack payload ckA ckB
  | .monVer => .rxMonVer payload ckA ckB
  | .navStatus => .rxNavStatus payload ckA ckB
  | .navTimeutc => .rxNavTimeutc payload ckA ckB
  | .other => .rxUbxOther cls id payload ckA ckB

/-- A whole received frame (R60, R70, R75). -/
def decodeRx (toks : List Tok) : Except DecodeError Instr :=
  match (tokBytes toks).bind splitFrame with
  | some (cls, id, payload, ckA, ckB) => .ok (rxInstr cls id payload ckA ckB)
  | none => .error .notAFrame

/-- The row of R70 a frame on TX belongs to (R62, R63). -/
def txInstr (cls id : Byte) (payload : List Byte) : Except DecodeError Instr :=
  match payload with
  | [c, i, r] => if cls = 0x06#8 ∧ id = 0x01#8 then .ok (.txCfgMsg c i r) else .error (.notSent cls id)
  | [] =>
    if cls = 0x0A#8 ∧ id = 0x04#8 then .ok .txMonVerPoll
    else if cls = 0x01#8 ∧ id = 0x03#8 then .ok .txNavStatusPoll
    else if cls = 0x01#8 ∧ id = 0x21#8 then .ok .txNavTimeutcPoll
    else .error (.notSent cls id)
  | _ => .error (.notSent cls id)

/-- A whole frame on TX: its checksum is the computed one (R102). -/
def decodeTx (toks : List Tok) : Except DecodeError Instr :=
  match (tokBytes toks).bind splitFrame with
  | some (cls, id, payload, ckA, ckB) =>
    if (ckA, ckB) = checksum cls id (BitVec.ofNat 16 payload.length) payload then txInstr cls id payload
    else .error .wrongChecksum
  | none => .error .notAFrame

/-- The decoder: total on any tokens of any space. -/
def decode : Space → List Tok → Except DecodeError Instr
  | .host, toks => decodeHost toks
  | .internal, toks => decodeInternal toks
  | .rx, toks => decodeRx toks
  | .tx, toks => decodeTx toks

/-- The space whose encoding table lists the instruction. -/
def Instr.space : Instr → Space
  | .bind | .attachObserver _ | .detachObserver | .setChecksumPolicy _ | .initEngine | .process | .subscribeStatus _
  | .subscribeTimeutc _ | .requestVersion | .requestStatus | .requestTimeutc | .readVersion | .readTimeutc
  | .readStatus | .readInitialized => .host
  | .setMessageRate _ _ _ | .pollMessage _ _ | .disableDefaultNmea | .waitPending | .feed _ | .sendFrame _ _ _
  | .dispatch => .internal
  | .rxAckAck _ _ _ | .rxAckNack _ _ _ | .rxMonVer _ _ _ | .rxNavStatus _ _ _ | .rxNavTimeutc _ _ _
  | .rxUbxOther _ _ _ _ _ => .rx
  | .txCfgMsg _ _ _ | .txMonVerPoll | .txNavStatusPoll | .txNavTimeutcPoll => .tx

/-- Bytes as tokens. -/
def byteToks (bytes : List Byte) : List Tok := bytes.map .byte

/-- The encoder: the tokens of an instruction in its own space (R60, R62, R63, R65, R71, R72). -/
def encode : Instr → List Tok
  | .bind => [.byte 0x01#8]
  | .attachObserver o => [.byte 0x02#8, .obs o]
  | .detachObserver => [.byte 0x03#8]
  | .setChecksumPolicy p => [.byte 0x04#8, .byte p]
  | .initEngine => [.byte 0x10#8]
  | .process => [.byte 0x11#8]
  | .subscribeStatus r => [.byte 0x12#8, .byte r]
  | .subscribeTimeutc r => [.byte 0x13#8, .byte r]
  | .requestVersion => [.byte 0x20#8]
  | .requestStatus => [.byte 0x21#8]
  | .requestTimeutc => [.byte 0x22#8]
  | .readVersion => [.byte 0x30#8]
  | .readTimeutc => [.byte 0x31#8]
  | .readStatus => [.byte 0x32#8]
  | .readInitialized => [.byte 0x33#8]
  | .setMessageRate c i r => [.byte 0x80#8, .byte c, .byte i, .byte r]
  | .pollMessage c i => [.byte 0x81#8, .byte c, .byte i]
  | .disableDefaultNmea => [.byte 0x82#8]
  | .waitPending => [.byte 0x83#8]
  | .feed n => [.byte 0x84#8, .count n]
  | .sendFrame c i payload => .byte 0x85#8 :: .byte c :: .byte i :: byteToks payload
  | .dispatch => [.byte 0x86#8]
  | .rxAckAck payload ckA ckB => byteToks (wireFrame 0x05#8 0x01#8 payload ckA ckB)
  | .rxAckNack payload ckA ckB => byteToks (wireFrame 0x05#8 0x00#8 payload ckA ckB)
  | .rxMonVer payload ckA ckB => byteToks (wireFrame 0x0A#8 0x04#8 payload ckA ckB)
  | .rxNavStatus payload ckA ckB => byteToks (wireFrame 0x01#8 0x03#8 payload ckA ckB)
  | .rxNavTimeutc payload ckA ckB => byteToks (wireFrame 0x01#8 0x21#8 payload ckA ckB)
  | .txCfgMsg c i r => byteToks (encodeFrame 0x06#8 0x01#8 [c, i, r])
  | .txMonVerPoll => byteToks (encodeFrame 0x0A#8 0x04#8 [])
  | .txNavStatusPoll => byteToks (encodeFrame 0x01#8 0x03#8 [])
  | .txNavTimeutcPoll => byteToks (encodeFrame 0x01#8 0x21#8 [])
  | .rxUbxOther cls id payload ckA ckB => byteToks (wireFrame cls id payload ckA ckB)

/-- The operand tokens of opcode or code `b`, all zero: what follows a table word whose operands the table gives no bits
(log 22). -/
def zeroOperands (b : Byte) : List Tok :=
  if b = 0x02#8 then [.obs 0]
  else if b = 0x04#8 ∨ b = 0x12#8 ∨ b = 0x13#8 then [.byte 0#8]
  else if b = 0x80#8 then [.byte 0#8, .byte 0#8, .byte 0#8]
  else if b = 0x81#8 ∨ b = 0x85#8 then [.byte 0#8, .byte 0#8]
  else if b = 0x84#8 then [.count 0]
  else []

/-- Where and how the hardware carries the instruction whose table bits are `w`: an 8-bit word is an opcode on the HOST port, or
an internal code; a 16-bit word is a frame key, class in bits 15:8 and id in bits 7:0. The key of CFG-MSG is the table's
one key that only a transmitted row has; the three poll rows share their key with a received row (log 8). -/
def tableWord (nbits w : Nat) : Option (Space × List Tok) :=
  if nbits = 8 then
    let b := BitVec.ofNat 8 w
    some (if (InternalOp.ofCode b).isSome then .internal else .host, .byte b :: zeroOperands b)
  else if nbits = 16 then
    let cls := BitVec.ofNat 8 (w / 256)
    let id := BitVec.ofNat 8 w
    if cls = 0x06#8 ∧ id = 0x01#8 then some (.tx, byteToks (encodeFrame cls id [0#8, 0#8, 0#8]))
    else some (.rx, byteToks (wireFrame cls id [] 0#8 0#8))
  else none

/-- The instruction the decoder reads from a table word (host interface). -/
def decodeTableWord (nbits w : Nat) : Option Instr :=
  match tableWord nbits w with
  | some (sp, toks) => (decode sp toks).toOption
  | none => none

end Sys2Proof
end

