-- ==== Sys2Proof/Machine/State.lean ====
section
/-! DEFINITION. The state of UBX-CORE (spec/10_state.md), the ports' pending inputs and outputs beside it, and the machine after
reset (R38 to R40). All of it is plain data. -/

namespace Sys2Proof.Machine

/-- P_STATE (R16). Values 9 to 15 are never written and are left out of the type, as R16 allows (log 17). -/
inductive PState where
  | waitHeader1 | waitHeader2 | cls | id | lenLow | lenHigh | payload | checksumA | checksumB
  deriving DecidableEq, Repr

/-- E_STATE (R25). -/
inductive EState where
  | uninitialized | awaitingVersionResponse | initialized | initializationFailed
  deriving DecidableEq, Repr

/-- E_PENDING (R26). Value 3 is never written and is left out of the type (log 17). -/
inductive Pending where
  | none | awaitingVersion | awaitingAck
  deriving DecidableEq, Repr

/-- CK_POLICY (R29). -/
inductive Policy where
  | permissive | strict
  deriving DecidableEq, Repr

/-- The six NMEA sentences of DISABLE_DEFAULT_NMEA (spec/30_encoding.md R77). -/
inductive Nmea where
  | gga | gll | gsa | gsv | rmc | vtg
  deriving DecidableEq, Repr

/-- The operation inside whose WAIT_PENDING the engine stands: R37's "position inside a wait" (log 1). -/
inductive Waiter where
  /-- WAIT_PENDING run by itself. -/
  | waitPending
  /-- SET_MESSAGE_RATE run by itself. -/
  | setMessageRate
  /-- DISABLE_DEFAULT_NMEA run by itself, in the wait of sentence `k`. -/
  | disableNmea (k : Nmea)
  | subscribeStatus
  | subscribeTimeutc
  /-- INITIALIZE, in the wait for MON-VER. -/
  | initVersion
  /-- INITIALIZE, in the wait of sentence `k` of its NMEA phase. -/
  | initNmea (k : Nmea)
  deriving DecidableEq, Repr

/-- The parser registers and the payload buffer (R15 to R24). -/
structure Parser where
  /-- P_STATE (R16). -/
  state : PState
  /-- P_CLS (R17). -/
  cls : Byte
  /-- P_ID (R18). -/
  id : Byte
  /-- P_LEN (R19). -/
  len : U16
  /-- P_IDX (R20). -/
  idx : U16
  /-- P_CKA (R21). -/
  ckA : Byte
  /-- P_CKB (R22). -/
  ckB : Byte
  /-- PBUF (R24): offset and byte, offsets rising, no byte equal to what an unlisted offset reads as. -/
  pbuf : List Host.Cell
  deriving DecidableEq, Repr

/-- The ModuleVersionSnapshot (R33): raw bytes without terminator. -/
structure VersionSnapshot where
  /-- VER_SW. -/
  sw : List Byte
  /-- VER_HW. -/
  hw : List Byte
  /-- VER_EXT[0]. -/
  ext0 : List Byte
  /-- VER_EXT[1]. -/
  ext1 : List Byte
  /-- VER_EXT[2]. -/
  ext2 : List Byte
  /-- VER_EXT[3]. -/
  ext3 : List Byte
  deriving DecidableEq, Repr

/-- The TimeUtcSnapshot (R34). TU_NANO is held as its 32 bits and read as two's complement (log 16); TU_TIME is a number
below 2^CLOCK_W (log 15). -/
structure TimeUtcSnapshot where
  tow : U32
  acc : U32
  nano : BitVec 32
  year : U16
  month : Byte
  day : Byte
  hour : Byte
  min : Byte
  sec : Byte
  towValid : Bool
  wknValid : Bool
  utcValid : Bool
  time : Nat
  deriving DecidableEq, Repr

/-- The GpsStatusSnapshot (R35). ST_TIME is a number below 2^CLOCK_W (log 15). -/
structure StatusSnapshot where
  tow : U32
  fix : Byte
  fixOk : Bool
  diff : Bool
  towValid : Bool
  wknValid : Bool
  time : Nat
  deriving DecidableEq, Repr

/-- The result codes (spec/30_encoding.md R66). -/
inductive ResultCode where
  | ok | timeout | transportUnbound | reentrant | illegalCommand
  deriving DecidableEq, Repr

/-- The data a result carries beside its code (spec/43_session.md R125 to R128). -/
inductive ReadData where
  | none
  | version (v : VersionSnapshot)
  | timeUtc (t : TimeUtcSnapshot)
  | status (t : StatusSnapshot)
  | initialized (flag : Bool)
  deriving DecidableEq, Repr

/-- Who gets a result: the host, the observer inside a notification (R144), or the engine operation that called an internal
operation (log 18). -/
inductive Issuer where
  | host | observer | engine
  deriving DecidableEq, Repr

/-- One result returned (spec/30_encoding.md R65). -/
structure Response where
  issuer : Issuer
  code : ResultCode
  data : ReadData
  deriving DecidableEq, Repr

/-- One notification delivered (spec/44_dispatch.md R144). -/
structure Notification where
  observer : ObserverId
  cls : Byte
  id : Byte
  len : U16
  payload : List Byte
  deriving DecidableEq, Repr

/-- The error events with what each records (spec/60_exceptions.md R147). R147 lets a model record them; nothing reads
them back (log 14). -/
inductive Event where
  | timeout (w : Waiter)
  | transportUnbound (op : HostOp)
  | reentrant (op : HostOp)
  | illegalCommand (command : List Tok)
  | noise (b : Byte)
  | resyncHdr2 (b : Byte)
  | oversize (len : U16)
  | checksumMismatch (cls id : Byte)
  deriving DecidableEq, Repr

/-- What the transport and the clock do before one RxAvail(): bytes arrive and real time moves on (spec/60_exceptions.md
R161, R163; the RX and CLK stimulus of spec/30_encoding.md R80). -/
structure Stim where
  rx : List Byte
  clk : Nat
  deriving DecidableEq, Repr

/-- One command the host will issue: what happens before it, its tokens, and what happens before each of its own RxAvail()
calls (the WAIT blocks of spec/30_encoding.md R80). -/
structure HostItem where
  stim : Stim
  command : List Tok
  waits : List Stim
  deriving DecidableEq, Repr

/-- The machine's state: what spec/10_state.md lists, then the model's own fields for the ports (log 2, log 12). -/
structure State where
  /-- MAX_PAYLOAD and CLOCK_W; no step writes them (log 3). -/
  cfg : Config
  /-- P_STATE to PBUF. -/
  parser : Parser
  /-- E_STATE (R25). -/
  eState : EState
  /-- E_PENDING (R26). -/
  pending : Pending
  /-- E_BOUND (R27). -/
  bound : Bool
  /-- E_OBS (R28). -/
  obs : Option ObserverId
  /-- CK_POLICY (R29). -/
  policy : Policy
  /-- E_IN_NOTIFY (R30). -/
  inNotify : Bool
  /-- E_WAIT_T0 (R31). -/
  waitT0 : Nat
  /-- The position inside a wait (R37): none between operations. -/
  wait : Option Waiter
  /-- VER_* (R33). -/
  ver : VersionSnapshot
  /-- TU_* (R34). -/
  tu : TimeUtcSnapshot
  /-- ST_* (R35). -/
  st : StatusSnapshot
  /-- RX: the bytes RxAvail() counts. -/
  rx : List Byte
  /-- RX and CLK: what happens before each coming RxAvail(). -/
  pumps : List Stim
  /-- CLK: the real-time millisecond count T of spec/60_exceptions.md R161. -/
  clk : Nat
  /-- CLK: how far T moves on before each coming Now(). -/
  ticks : List Nat
  /-- NOTIFY: the commands the observer issues in each coming notification. -/
  obsScript : List (List (List Tok))
  /-- HOST: the commands to come. -/
  hostQ : List HostItem
  /-- An operation outside the HOST port, presented for the next step (log 6). -/
  opLatch : Option (Space × List Tok)
  /-- TX: the bytes written so far. -/
  tx : List Byte
  /-- NOTIFY: the notifications delivered so far. -/
  notes : List Notification
  /-- HOST: the results returned so far. -/
  responses : List Response
  /-- The event history. -/
  events : List Event
  deriving DecidableEq, Repr

/-- The faults: the machine stops. -/
inductive Fault where
  /-- Raised by an operation that runs the parser or a handler when the parser registers break R20's bound, so that PBUF
  would be touched at an offset it does not have (R24, R42). No run reaches such a state. Safe (log 9). Raised as well by DISPATCH
  run by itself while P_LEN is more than MAX_PAYLOAD, in any P_STATE, as after an OVERSIZE header. Safe (log 27). -/
  | pbufOutOfRange
  deriving DecidableEq, Repr

/-- The refusals: the model gives no meaning. -/
inductive Refusal where
  /-- Raised by exec's own arms for an instruction without a meaning; no arm does so. Safe. -/
  | notModelled (mnemonic : String)
  /-- Raised by FEED n when n is more than RX has ready, a call R163 says the engine never makes. Safe (log 10). -/
  | rxReadBeyondAvail
  /-- Raised by SEND_FRAME and the received-frame rows when the payload operand is longer than a frame's length field can say
  (spec/42_codec.md R102). Safe (log 11). -/
  | payloadTooLong
  /-- Raised by step when opLatch holds tokens that encode no operation. Safe (log 24). -/
  | malformedOperation
  deriving DecidableEq, Repr

/-- What a PBUF offset that no cell lists reads as: R38's reset value. -/
def Memory.unlisted : Byte := 0#8

/-- The parser registers after reset (R38, R39). -/
def Parser.reset : Parser :=
  { state := .waitHeader1, cls := 0#8, id := 0#8, len := 0#16, idx := 0#16, ckA := 0#8, ckB := 0#8, pbuf := [] }

/-- VER_* after reset (R40). -/
def VersionSnapshot.reset : VersionSnapshot := { sw := [], hw := [], ext0 := [], ext1 := [], ext2 := [], ext3 := [] }

/-- TU_* after reset (R40). -/
def TimeUtcSnapshot.reset : TimeUtcSnapshot :=
  { tow := 0#32, acc := 0#32, nano := 0#32, year := 0#16, month := 0#8, day := 0#8, hour := 0#8, min := 0#8, sec := 0#8,
    towValid := false, wknValid := false, utcValid := false, time := 0 }

/-- ST_* after reset (R40). -/
def StatusSnapshot.reset : StatusSnapshot :=
  { tow := 0#32, fix := 0#8, fixOk := false, diff := false, towValid := false, wknValid := false, time := 0 }

/-- The machine after reset, with any parameters (R38, R167). The ports are silent: nothing is read, written, sampled or
notified (log 12). -/
def State.resetWith (cfg : Config) : State :=
  { cfg := cfg, parser := .reset, eState := .uninitialized, pending := .none, bound := false, obs := none,
    policy := .permissive, inNotify := false, waitT0 := 0, wait := none, ver := .reset, tu := .reset, st := .reset,
    rx := [], pumps := [], clk := 0, ticks := [], obsScript := [], hostQ := [], opLatch := none, tx := [], notes := [],
    responses := [], events := [] }

/-- The machine after reset, with the reference parameters (log 3). -/
def State.reset : State := State.resetWith .reference

end Sys2Proof.Machine
end

