-- ==== Sys2Proof/Machine/Ops.lean ====
section
/-! DEFINITION. The named operations over the payload buffer, the streams, the clock, the event history and the results, and
the acceptance of a host command: the primitives of spec/00_scope.md R12. UBX-CORE has no trap entry (spec/60_exceptions.md
R158): an error is an event raised and a result returned, so `raise` and `answer` are what taking an exception is here, and
no return from one exists (R159). -/

namespace Sys2Proof.Machine

/-! ### Register encodings -/

/-- P_STATE's encoding (R16). -/
def PState.code : PState → BitVec 4
  | .waitHeader1 => 0 | .waitHeader2 => 1 | .cls => 2 | .id => 3 | .lenLow => 4 | .lenHigh => 5 | .payload => 6
  | .checksumA => 7 | .checksumB => 8

/-- E_STATE's encoding (R25). -/
def EState.code : EState → BitVec 2
  | .uninitialized => 0 | .awaitingVersionResponse => 1 | .initialized => 2 | .initializationFailed => 3

/-- E_PENDING's encoding (R26). -/
def Pending.code : Pending → BitVec 2
  | .none => 0 | .awaitingVersion => 1 | .awaitingAck => 2

/-- CK_POLICY's encoding (R29). -/
def Policy.code : Policy → BitVec 1
  | .permissive => 0 | .strict => 1

/-- The result codes' numbers (spec/30_encoding.md R66). -/
def ResultCode.number : ResultCode → Nat
  | .ok => 0 | .timeout => 1 | .transportUnbound => 2 | .reentrant => 3 | .illegalCommand => 4

/-- The event codes (spec/60_exceptions.md R147). -/
def Event.code : Event → Byte
  | .timeout _ => 0x01#8 | .transportUnbound _ => 0x02#8 | .reentrant _ => 0x03#8 | .illegalCommand _ => 0x04#8
  | .noise _ => 0x10#8 | .resyncHdr2 _ => 0x11#8 | .oversize _ => 0x12#8 | .checksumMismatch _ _ => 0x13#8

/-! ### The payload buffer (spec/20_memory.md R47, R48) -/

/-- One byte of a cell list; an address no cell lists reads `Memory.unlisted`. -/
def Memory.read : List Host.Cell → Nat → Byte
  | [], _ => Memory.unlisted
  | (a, b) :: rest, x => if a = x then b else Memory.read rest x

/-- Write one byte and keep the canonical form: writing `Memory.unlisted` leaves no cell. -/
def Memory.write : List Host.Cell → Nat → Byte → List Host.Cell
  | [], x, v => if v = Memory.unlisted then [] else [(x, v)]
  | (a, b) :: rest, x, v =>
    if x < a then (if v = Memory.unlisted then (a, b) :: rest else (x, v) :: (a, b) :: rest)
    else if x = a then (if v = Memory.unlisted then rest else (x, v) :: rest)
    else (a, b) :: Memory.write rest x v

/-- The canonical form: addresses strictly rising, no cell equal to what an unlisted address reads as. -/
def Memory.wf : List Host.Cell → Bool
  | [] => true
  | (a, b) :: rest => b != Memory.unlisted && rest.all (fun c => decide (a < c.1)) && Memory.wf rest

/-- `n` bytes from offset `off`. -/
def Memory.readBytes (m : List Host.Cell) (off : Nat) : Nat → List Byte
  | 0 => []
  | n + 1 => Memory.read m off :: Memory.readBytes m (off + 1) n

/-- `MemRead(off, n)` as a number: little-endian (R43, R47). Its callers establish `off + n <= P_LEN`. -/
def memRead (m : List Host.Cell) (off : Nat) : Nat → Nat
  | 0 => 0
  | n + 1 => (Memory.read m off).toNat + 256 * memRead m (off + 1) n

/-- `MemWrite(off, 1, b)` (R48). -/
def State.memWrite (off : Nat) (b : Byte) (s : State) : State :=
  { s with parser := { s.parser with pbuf := Memory.write s.parser.pbuf off b } }

/-- The payload of the frame in the parser registers: PBUF[0 .. P_LEN-1] (R23). -/
def State.payload (s : State) : List Byte := Memory.readBytes s.parser.pbuf 0 s.parser.len.toNat

/-- R20's bound, where a rule is about to rely on it: in the Payload state `P_IDX < P_LEN <= MAX_PAYLOAD`, in the checksum states
`P_LEN <= MAX_PAYLOAD`. -/
def State.parserInBounds (s : State) : Bool :=
  match s.parser.state with
  | .payload => decide (s.parser.idx.toNat < s.parser.len.toNat) && decide (s.parser.len.toNat ≤ s.cfg.maxPayload)
  | .checksumA | .checksumB => decide (s.parser.len.toNat ≤ s.cfg.maxPayload)
  | .waitHeader1 | .waitHeader2 | .cls | .id | .lenLow | .lenHigh => true

/-- Go on when PBUF has every offset the operation may touch, else fault (log 9). -/
def guardPbuf (inBounds : Bool) (t : State) : Host.Outcome State Fault Refusal :=
  if inBounds then .next t else .fault .pbufOutOfRange

/-! ### Streams and clock -/

/-- `TxWrite(b)` (R50, spec/60_exceptions.md R163). -/
def State.txWrite (s : State) (b : Byte) : State := { s with tx := s.tx ++ [b] }

/-- Bytes arrive on RX and real time moves on. -/
def State.stimulate (st : Stim) (s : State) : State := { s with rx := s.rx ++ st.rx, clk := s.clk + st.clk }

/-- An environment that does nothing. -/
def Stim.silent : Stim := ⟨[], 0⟩

/-- What the environment does before an RxAvail(): the next entry of `pumps`, or nothing when none is left. The value RxAvail()
then returns is the length of `rx` (spec/60_exceptions.md R163). -/
def State.rxArrive (s : State) : State :=
  State.stimulate (s.pumps.headD Stim.silent) { s with pumps := s.pumps.tail }

/-- The time that passes before a `Now()` (R161): the next entry of `ticks`, or none when none is left. -/
def State.tick (s : State) : State := { s with clk := s.clk + s.ticks.headD 0, ticks := s.ticks.tail }

/-- The value `Now()` returns in a state: T mod 2^CLOCK_W (R161). -/
def State.now (s : State) : Nat := s.clk % 2 ^ s.cfg.clockW

/-- `(t - t0) mod 2^CLOCK_W` (spec/60_exceptions.md R162). -/
def elapsed (clockW t t0 : Nat) : Nat := (t + (2 ^ clockW - t0 % 2 ^ clockW)) % 2 ^ clockW

/-! ### Events and results -/

/-- `raise <Event>(info)` (R12). -/
def State.raise (e : Event) (s : State) : State := { s with events := s.events ++ [e] }

/-- Return a result to `who`. -/
def State.answerTo (who : Issuer) (code : ResultCode) (data : ReadData) (s : State) : State :=
  { s with responses := s.responses ++ [⟨who, code, data⟩] }

/-- Who issued the command now running: the observer inside a notification, else the host. -/
def State.issuer (s : State) : Issuer := if s.inNotify then .observer else .host

/-- `return <Result>` of a host command (R12). -/
def State.answer (code : ResultCode) (data : ReadData) (s : State) : State := s.answerTo s.issuer code data

/-! ### Acceptance (spec/43_session.md R111 to R113) -/

/-- NEEDS_TRANSPORT (R112). -/
def needsTransport : HostOp → Bool
  | .initEngine | .process | .subscribeStatus | .subscribeTimeutc | .requestVersion | .requestStatus
  | .requestTimeutc => true
  | .bind | .attachObserver | .detachObserver | .setChecksumPolicy | .readVersion | .readTimeutc | .readStatus
  | .readInitialized => false

/-- REFUSED_IN_NOTIFY (R113). -/
def refusedInNotify : HostOp → Bool
  | .initEngine | .subscribeStatus | .subscribeTimeutc | .process | .bind => true
  | .attachObserver | .detachObserver | .setChecksumPolicy | .requestVersion | .requestStatus | .requestTimeutc
  | .readVersion | .readTimeutc | .readStatus | .readInitialized => false

/-- ILLEGAL_COMMAND (spec/60_exceptions.md R154): the command has no other effect. -/
def illegalCommand (command : List Tok) (s : State) : State :=
  (s.raise (.illegalCommand command)).answer .illegalCommand .none

/-- REENTRANT (R153). -/
def reentrant (op : HostOp) (s : State) : State := (s.raise (.reentrant op)).answer .reentrant .none

/-- TRANSPORT_UNBOUND (R152). -/
def transportUnbound (op : HostOp) (s : State) : State :=
  (s.raise (.transportUnbound op)).answer .transportUnbound .none

/-- The second and third check of ACCEPT (R111), in that order: the state after the check that fails, if one does. The first
check, the command's form, is the decoder's. -/
def refusedAtAcceptance (op : HostOp) (s : State) : Option State :=
  if s.inNotify && refusedInNotify op then some (reentrant op s)
  else if needsTransport op && !s.bound then some (transportUnbound op s)
  else none

/-- ACCEPT (R111) around a command's rule. -/
def accept (op : HostOp) (run : State → Host.Outcome State Fault Refusal) (s : State) :
    Host.Outcome State Fault Refusal :=
  match refusedAtAcceptance op s with
  | some t => .next t
  | none => run s

/-- ACCEPT around a rule that always goes on. -/
def acceptThen (op : HostOp) (run : State → State) (s : State) : State :=
  match refusedAtAcceptance op s with
  | some t => t
  | none => run s

end Sys2Proof.Machine
end

