-- ==== Sys2Proof/Machine/Operands.lean ====
section
/-! DEFINITION. The MessageCodec's field extractors over the payload of the frame in the parser registers (spec/42_codec.md R104 to
R107, R109), as R73 assembles them. R110: the numeric ones are defined only when `off + size <= P_LEN`; every use stands behind
its handler's minimum-length test. -/

namespace Sys2Proof.Machine

/-- `u1(off)` (R104). -/
def State.u1 (s : State) (off : Nat) : Byte := BitVec.ofNat 8 (memRead s.parser.pbuf off 1)

/-- `u2(off)` (R105). -/
def State.u2 (s : State) (off : Nat) : U16 := BitVec.ofNat 16 (memRead s.parser.pbuf off 2)

/-- `u4(off)` (R106). -/
def State.u4 (s : State) (off : Nat) : U32 := BitVec.ofNat 32 (memRead s.parser.pbuf off 4)

/-- `i4(off)`: the 32 bits of `u4(off)`, read as two's complement by `signed32` (R107, log 16). -/
def State.i4 (s : State) (off : Nat) : BitVec 32 := s.u4 off

/-- The signed value of 32 bits (R107). -/
def signed32 (v : BitVec 32) : Int := if v.getLsbD 31 then (v.toNat : Int) - 2 ^ 32 else v.toNat

/-- `string(off, n)` (R109): `n` bytes at most, up to a zero byte or the end of the payload, whichever comes first. -/
def State.string (s : State) (off : Nat) : Nat → List Byte
  | 0 => []
  | n + 1 =>
    if off < s.parser.len.toNat then
      let c := Memory.read s.parser.pbuf off
      if c = 0#8 then [] else c :: s.string (off + 1) n
    else []

/-- VER_EXT[k] as MON-VER sets it (spec/44_dispatch.md R139): slot k at offset `40 + 30k`, or "N/A" when the payload does not
contain the whole slot. -/
def State.extension (s : State) (k : Nat) : List Byte :=
  if 70 + 30 * k ≤ s.parser.len.toNat then s.string (40 + 30 * k) 30 else notAvailable

end Sys2Proof.Machine
end

