-- ==== Sys2Proof/Machine/Flags.lean ====
section
/-! DEFINITION. The flags (spec/10_state.md R36): UBX-CORE has no arithmetic condition codes; a snapshot's validity flags are copies of
payload bits (spec/42_codec.md R108). -/

namespace Sys2Proof.Machine

/-- `flag(off, bit)` (R108): one bit of the byte at `off`, bit 0 the least significant. -/
def State.flag (s : State) (off bit : Nat) : Bool := (Memory.read s.parser.pbuf off).getLsbD bit

/-- The four flags of NAV-STATUS, bits 0 to 3 of payload byte 5 (spec/30_encoding.md R67; 93_implementation_defined.md GK5 on the
order of bits 2 and 3). -/
def State.statusFlags (s : State) (old : StatusSnapshot) : StatusSnapshot :=
  { old with fixOk := s.flag 5 0, diff := s.flag 5 1, towValid := s.flag 5 2, wknValid := s.flag 5 3 }

/-- The three flags of NAV-TIMEUTC, bits 0 to 2 of payload byte 19 (spec/30_encoding.md R68). -/
def State.timeUtcFlags (s : State) (old : TimeUtcSnapshot) : TimeUtcSnapshot :=
  { old with towValid := s.flag 19 0, wknValid := s.flag 19 1, utcValid := s.flag 19 2 }

end Sys2Proof.Machine
end

