-- ==== Sys2Proof/Machine/Codec.lean ====
section
/-! DEFINITION. The ChecksumEngine's Validate (spec/40_checksum.md R83 to R85), SEND_FRAME (spec/42_codec.md R103), POLL_MESSAGE
(spec/43_session.md R130), the frames UBX-CORE transmits (spec/30_encoding.md R62, R63), and the meanings of their rows: a
transmitted frame's row sends it (log 28). Run by themselves none of them checks the transport (log 29). -/

namespace Sys2Proof.Machine

/-- `Validate_Strict(frame)` (R84). -/
def State.validateStrict (s : State) : Bool :=
  decide (checksum s.parser.cls s.parser.id s.parser.len s.payload = (s.parser.ckA, s.parser.ckB))

/-- `Validate(frame)` (R85): Permissive accepts every frame (R83). -/
def State.validate (s : State) : Bool :=
  match s.policy with
  | .permissive => true
  | .strict => s.validateStrict

/-- `SEND_FRAME(c, i, p)` (R103): every byte of ENCODE, in order. -/
def sendFrame (c i : Byte) (payload : List Byte) (s : State) : State :=
  (encodeFrame c i payload).foldl State.txWrite s

/-- The sending of POLL_MESSAGE (R130): a frame with no payload. E_PENDING is neither read nor written. -/
def sendPoll (c i : Byte) (s : State) : State := sendFrame c i [] s

/-- The sending of a CFG-MSG frame (R62). -/
def sendCfgMsg (c i r : Byte) (s : State) : State := sendFrame 0x06#8 0x01#8 [c, i, r] s

/-- SEND_FRAME (R103). -/
def execSendFrame (c i : Byte) (payload : List Byte) (s : State) : Host.Outcome State Fault Refusal :=
  if payload.length ≤ 65535 then .next (sendFrame c i payload s) else .refused .payloadTooLong

/-- POLL_MESSAGE (R130): returns OK to its caller, which is the engine when it is run by itself (log 18). -/
def execPollMessage (c i : Byte) (s : State) : Host.Outcome State Fault Refusal :=
  .next ((sendPoll c i s).answerTo .engine .ok .none)

/-- TX CFG-MSG (R62). -/
def execTxCfgMsg (c i r : Byte) (s : State) : Host.Outcome State Fault Refusal := .next (sendCfgMsg c i r s)

/-- TX MON-VER poll (R63). -/
def execTxMonVerPoll (s : State) : Host.Outcome State Fault Refusal := .next (sendPoll 0x0A#8 0x04#8 s)

/-- TX NAV-STATUS poll (R63). -/
def execTxNavStatusPoll (s : State) : Host.Outcome State Fault Refusal := .next (sendPoll 0x01#8 0x03#8 s)

/-- TX NAV-TIMEUTC poll (R63). -/
def execTxNavTimeutcPoll (s : State) : Host.Outcome State Fault Refusal := .next (sendPoll 0x01#8 0x21#8 s)

end Sys2Proof.Machine
end

