-- ==== Sys2Proof/Machine/Commands.lean ====
section
/-! DEFINITION. The host commands that run no pump: configuration (spec/43_session.md R114 to R117), polls (R122 to R124) and
accessors (R125 to R128). Each is a total function of the state, its acceptance included (R111), so that the observer can issue
it inside a notification too. -/

namespace Sys2Proof.Machine

/-- BIND's rule (R114): the parser starts at a frame boundary. -/
def bind (s : State) : State :=
  State.answer .ok .none
    { s with bound := true, parser := { s.parser with state := .waitHeader1, idx := 0#16 } }

/-- BIND. -/
def commandBind (s : State) : State := acceptThen .bind bind s

/-- ATTACH_OBSERVER (R115). -/
def commandAttachObserver (o : ObserverId) (s : State) : State :=
  acceptThen .attachObserver (fun s => State.answer .ok .none { s with obs := some o }) s

/-- DETACH_OBSERVER (R116). -/
def commandDetachObserver (s : State) : State :=
  acceptThen .detachObserver (fun s => State.answer .ok .none { s with obs := none }) s

/-- The policy an operand names (R117), if it is legal (spec/30_encoding.md R74). -/
def policyOf (p : Byte) : Option Policy :=
  if p = 0#8 then some .permissive else if p = 1#8 then some .strict else none

/-- SET_CHECKSUM_POLICY (R117): an operand above 1 is ILLEGAL_COMMAND and changes nothing. -/
def commandSetChecksumPolicy (p : Byte) (s : State) : State :=
  match policyOf p with
  | some policy => acceptThen .setChecksumPolicy (fun s => State.answer .ok .none { s with policy := policy }) s
  | none => illegalCommand [.byte 0x04#8, .byte p] s

/-- A fire-and-forget poll (R122 to R124). -/
def commandRequest (op : HostOp) (c i : Byte) (s : State) : State :=
  acceptThen op (fun s => State.answer .ok .none (sendPoll c i s)) s

/-- REQUEST_VERSION (R122). -/
def commandRequestVersion (s : State) : State := commandRequest .requestVersion 0x0A#8 0x04#8 s

/-- REQUEST_STATUS (R123). -/
def commandRequestStatus (s : State) : State := commandRequest .requestStatus 0x01#8 0x03#8 s

/-- REQUEST_TIMEUTC (R124). -/
def commandRequestTimeutc (s : State) : State := commandRequest .requestTimeutc 0x01#8 0x21#8 s

/-- READ_VERSION (R125). -/
def commandReadVersion (s : State) : State :=
  acceptThen .readVersion (fun s => s.answer .ok (.version s.ver)) s

/-- READ_TIMEUTC (R126). -/
def commandReadTimeutc (s : State) : State :=
  acceptThen .readTimeutc (fun s => s.answer .ok (.timeUtc s.tu)) s

/-- READ_STATUS (R127). -/
def commandReadStatus (s : State) : State :=
  acceptThen .readStatus (fun s => s.answer .ok (.status s.st)) s

/-- READ_INITIALIZED (R128). -/
def commandReadInitialized (s : State) : State :=
  acceptThen .readInitialized (fun s => s.answer .ok (.initialized (decide (s.eState = .initialized)))) s

/-- BIND (R114). -/
def execBind (s : State) : Host.Outcome State Fault Refusal := .next (commandBind s)

/-- ATTACH_OBSERVER (R115). -/
def execAttachObserver (o : ObserverId) (s : State) : Host.Outcome State Fault Refusal :=
  .next (commandAttachObserver o s)

/-- DETACH_OBSERVER (R116). -/
def execDetachObserver (s : State) : Host.Outcome State Fault Refusal := .next (commandDetachObserver s)

/-- SET_CHECKSUM_POLICY (R117). -/
def execSetChecksumPolicy (p : Byte) (s : State) : Host.Outcome State Fault Refusal :=
  .next (commandSetChecksumPolicy p s)

/-- REQUEST_VERSION (R122). -/
def execRequestVersion (s : State) : Host.Outcome State Fault Refusal := .next (commandRequestVersion s)

/-- REQUEST_STATUS (R123). -/
def execRequestStatus (s : State) : Host.Outcome State Fault Refusal := .next (commandRequestStatus s)

/-- REQUEST_TIMEUTC (R124). -/
def execRequestTimeutc (s : State) : Host.Outcome State Fault Refusal := .next (commandRequestTimeutc s)

/-- READ_VERSION (R125). -/
def execReadVersion (s : State) : Host.Outcome State Fault Refusal := .next (commandReadVersion s)

/-- READ_TIMEUTC (R126). -/
def execReadTimeutc (s : State) : Host.Outcome State Fault Refusal := .next (commandReadTimeutc s)

/-- READ_STATUS (R127). -/
def execReadStatus (s : State) : Host.Outcome State Fault Refusal := .next (commandReadStatus s)

/-- READ_INITIALIZED (R128). -/
def execReadInitialized (s : State) : Host.Outcome State Fault Refusal := .next (commandReadInitialized s)

end Sys2Proof.Machine
end

