-- ==== Sys2Proof/Machine/Handlers.lean ====
section
/-! DEFINITION. DISPATCH, the message handlers and the observer notification (spec/44_dispatch.md R135 to R145), and the meaning of
the DISPATCH row. -/

namespace Sys2Proof.Machine

/-! ### Handlers -/

/-- The ACK-ACK handler (R137). -/
def handleAckAck (s : State) : State := { s with pending := .none }

/-- The ACK-NACK handler (R138): a NACK clears pending as an ACK does. -/
def handleAckNack (s : State) : State := { s with pending := .none }

/-- The strings MON-VER sets (R139). -/
def State.versionFields (s : State) : VersionSnapshot :=
  { sw := s.string 0 30, hw := s.string 30 10,
    ext0 := s.extension 0, ext1 := s.extension 1, ext2 := s.extension 2, ext3 := s.extension 3 }

/-- The MON-VER handler (R139): six strings, and pending cleared whatever it was. -/
def handleMonVer (s : State) : State := { s with ver := s.versionFields, pending := .none }

/-- The fields NAV-STATUS sets (R140), the capture time included. -/
def State.statusFields (s : State) (time : Nat) : StatusSnapshot :=
  s.statusFlags
    { tow := s.u4 0, fix := s.u1 4, fixOk := false, diff := false, towValid := false, wknValid := false, time := time }

/-- The NAV-STATUS handler (R140): with fewer than 6 bytes nothing is written; else one Now() sample (R143). -/
def handleNavStatus (s : State) : State :=
  if 6 ≤ s.parser.len.toNat then { s.tick with st := s.statusFields s.tick.now } else s

/-- The fields NAV-TIMEUTC sets (R141), the capture time included; no range check. -/
def State.timeUtcFields (s : State) (time : Nat) : TimeUtcSnapshot :=
  s.timeUtcFlags
    { tow := s.u4 0, acc := s.u4 4, nano := s.i4 8, year := s.u2 12, month := s.u1 14, day := s.u1 15, hour := s.u1 16,
      min := s.u1 17, sec := s.u1 18, towValid := false, wknValid := false, utcValid := false, time := time }

/-- The NAV-TIMEUTC handler (R141): with fewer than 20 bytes nothing is written; else one Now() sample (R143). -/
def handleNavTimeutc (s : State) : State :=
  if 20 ≤ s.parser.len.toNat then { s.tick with tu := s.timeUtcFields s.tick.now } else s

/-- The handler for any other frame (R142): it does nothing. -/
def handleOther (s : State) : State := s

/-- `HANDLE(cls, id)` (R136). -/
def handle (s : State) : State :=
  match frameKind s.parser.cls s.parser.id with
  | .ackAck => handleAckAck s
  | .ackNack => handleAckNack s
  | .monVer => handleMonVer s
  | .navStatus => handleNavStatus s
  | .navTimeutc => handleNavTimeutc s
  | .other => handleOther s

/-! ### Notification -/

/-- One command of the observer (R144; spec/43_session.md R113). E_IN_NOTIFY is 1 here, so each command of REFUSED_IN_NOTIFY is
REENTRANT. An internal operation or a frame is no host command. -/
def observerRun (command : List Tok) (i : Instr) (s : State) : State :=
  match i with
  | .bind => reentrant .bind s
  | .initEngine => reentrant .initEngine s
  | .process => reentrant .process s
  | .subscribeStatus _ => reentrant .subscribeStatus s
  | .subscribeTimeutc _ => reentrant .subscribeTimeutc s
  | .attachObserver o => commandAttachObserver o s
  | .detachObserver => commandDetachObserver s
  | .setChecksumPolicy p => commandSetChecksumPolicy p s
  | .requestVersion => commandRequestVersion s
  | .requestStatus => commandRequestStatus s
  | .requestTimeutc => commandRequestTimeutc s
  | .readVersion => commandReadVersion s
  | .readTimeutc => commandReadTimeutc s
  | .readStatus => commandReadStatus s
  | .readInitialized => commandReadInitialized s
  | .setMessageRate _ _ _ | .pollMessage _ _ | .disableDefaultNmea | .waitPending | .feed _ | .sendFrame _ _ _
  | .dispatch | .rxAckAck _ _ _ | .rxAckNack _ _ _ | .rxMonVer _ _ _ | .rxNavStatus _ _ _ | .rxNavTimeutc _ _ _
  | .txCfgMsg _ _ _ | .txMonVerPoll | .txNavStatusPoll | .txNavTimeutcPoll | .rxUbxOther _ _ _ _ _ =>
    illegalCommand command s

/-- One command of the observer, from its tokens. -/
def observerCommand (s : State) (command : List Tok) : State :=
  match decode .host command with
  | .ok i => observerRun command i s
  | .error _ => illegalCommand command s

/-- The observer runs: the commands of this notification, in order (R144; spec/30_encoding.md R80's ON_NOTIFY). With no entry left
the observer issues none. -/
def observerTurn (s : State) : State :=
  match s.obsScript with
  | [] => s
  | commands :: rest => commands.foldl observerCommand { s with obsScript := rest }

/-- What Notify delivers (R144): the frame in the parser registers, to observer `o`. -/
def State.notification (s : State) (o : ObserverId) : Notification :=
  { observer := o, cls := s.parser.cls, id := s.parser.id, len := s.parser.len, payload := s.payload }

/-- `Notify(P_CLS, P_ID, P_LEN)` (R144). E_OBS is read once (R145). -/
def notify (s : State) : State :=
  match s.obs with
  | none => s
  | some o =>
    let during := observerTurn { s with inNotify := true, notes := s.notes ++ [s.notification o] }
    { during with inNotify := false }

/-- `DISPATCH()` (R135): the handler, then Notify. -/
def dispatchFrame (s : State) : State := notify (handle s)

/-- DISPATCH (R135). Run by itself it takes the frame from the parser registers as they stand, in any P_STATE, complete or not, and
faults when P_LEN is more than MAX_PAYLOAD, as an OVERSIZE header leaves it in WaitHeader1: Notify's PBUF[0 .. P_LEN-1] then names
bytes that PBUF does not have. DESIGN CHOICE, safe where it faults and unsafe where it goes on (log 27): the spec runs DISPATCH only
when ChecksumB completes a frame (R97). It checks no transport (log 29). -/
def execDispatch (s : State) : Host.Outcome State Fault Refusal :=
  guardPbuf (decide (s.parser.len.toNat ≤ s.cfg.maxPayload)) (dispatchFrame s)

end Sys2Proof.Machine
end

