-- ==== Sys2Proof/Machine/Parser.lean ====
section
/-! DEFINITION. The FrameParser (spec/41_frame_parser.md R87 to R97), and the meanings of FEED and of the received-frame rows. -/

namespace Sys2Proof.Machine

/-- Write parser registers. -/
def State.setParser (s : State) (p : Parser) : State := { s with parser := p }

/-- The WaitHeader1 step (R89). -/
def stepWaitHeader1 (b : Byte) (s : State) : State :=
  if b = hdr1 then s.setParser { s.parser with idx := 0#16, state := .waitHeader2 } else s.raise (.noise b)

/-- The WaitHeader2 step (R90): a mismatching byte is consumed, not re-examined. -/
def stepWaitHeader2 (b : Byte) (s : State) : State :=
  if b = hdr2 then s.setParser { s.parser with state := .cls }
  else (s.raise (.resyncHdr2 b)).setParser { s.parser with state := .waitHeader1 }

/-- The Class step (R91). -/
def stepClass (b : Byte) (s : State) : State := s.setParser { s.parser with cls := b, state := .id }

/-- The Id step (R92). -/
def stepId (b : Byte) (s : State) : State := s.setParser { s.parser with id := b, state := .lenLow }

/-- The LenLow step (R93). -/
def stepLenLow (b : Byte) (s : State) : State :=
  s.setParser { s.parser with len := b.zeroExtend 16, state := .lenHigh }

/-- The LenHigh step (R94): the length test comes first, then the zero test (spec/60_exceptions.md R157). -/
def stepLenHigh (b : Byte) (s : State) : State :=
  let len := wordOfBytes b (loByte s.parser.len)
  if s.cfg.maxPayload < len.toNat then
    (s.raise (.oversize len)).setParser { s.parser with len := len, state := .waitHeader1 }
  else if len = 0#16 then s.setParser { s.parser with len := len, state := .checksumA }
  else s.setParser { s.parser with len := len, idx := 0#16, state := .payload }

/-- The Payload step (R95). -/
def stepPayload (b : Byte) (s : State) : State :=
  let s := s.memWrite s.parser.idx.toNat b
  let idx := s.parser.idx + 1#16
  if idx = s.parser.len then s.setParser { s.parser with idx := idx, state := .checksumA }
  else s.setParser { s.parser with idx := idx }

/-- The ChecksumA step (R96). -/
def stepChecksumA (b : Byte) (s : State) : State := s.setParser { s.parser with ckA := b, state := .checksumB }

/-- The parser between frames: WaitHeader1 and an empty payload (R97, R98). -/
def finishFrame (s : State) : State := s.setParser { s.parser with state := .waitHeader1, idx := 0#16 }

/-- The ChecksumB step (R97): validate, then dispatch or drop, then release the payload. -/
def stepChecksumB (b : Byte) (s : State) : State :=
  let s := s.setParser { s.parser with ckB := b }
  if s.validate then finishFrame (dispatchFrame s)
  else finishFrame (s.raise (.checksumMismatch s.parser.cls s.parser.id))

/-- `ParserStep(b)` (R88). -/
def parserStep (b : Byte) (s : State) : State :=
  match s.parser.state with
  | .waitHeader1 => stepWaitHeader1 b s
  | .waitHeader2 => stepWaitHeader2 b s
  | .cls => stepClass b s
  | .id => stepId b s
  | .lenLow => stepLenLow b s
  | .lenHigh => stepLenHigh b s
  | .payload => stepPayload b s
  | .checksumA => stepChecksumA b s
  | .checksumB => stepChecksumB b s

/-- `FEED(n)` (R87): RxRead and ParserStep, n times. Its callers never ask for more bytes than `rx` holds
(spec/60_exceptions.md R163). -/
def feed : Nat → State → State
  | 0, s => s
  | n + 1, s =>
    match s.rx with
    | [] => s
    | b :: rest => feed n (parserStep b { s with rx := rest })

/-- One pump: `n <- RxAvail()`, `FEED(n)` (spec/43_session.md R119, R132). n is sampled once. -/
def pump (s : State) : State := feed s.rxArrive.rx.length s.rxArrive

/-- FEED (R87). Run by itself it checks no transport: with E_BOUND = 0 it runs as it does bound. DESIGN CHOICE, unsafe (log 29): the spec
lets only a command that has passed the transport check call it (spec/60_exceptions.md R157). -/
def execFeed (n : Nat) (s : State) : Host.Outcome State Fault Refusal :=
  if n ≤ s.rx.length then guardPbuf s.parserInBounds (feed n s) else .refused .rxReadBeyondAvail

/-- The bytes of a frame come in on RX, next before everything RX holds, and the parser consumes them (R87; log 7). -/
def receiveFrame (cls id : Byte) (payload : List Byte) (ckA ckB : Byte) (s : State) : State :=
  let frame := wireFrame cls id payload ckA ckB
  feed frame.length { s with rx := frame ++ s.rx }

/-- A received frame: one whose length field can say its payload (spec/30_encoding.md R61). Like FEED by itself it checks no transport
(log 29). -/
def receive (cls id : Byte) (payload : List Byte) (ckA ckB : Byte) (s : State) : Host.Outcome State Fault Refusal :=
  if payload.length ≤ 65535 then guardPbuf s.parserInBounds (receiveFrame cls id payload ckA ckB s)
  else .refused .payloadTooLong

/-- RX ACK-ACK (spec/44_dispatch.md R137). -/
def execRxAckAck (payload : List Byte) (ckA ckB : Byte) (s : State) : Host.Outcome State Fault Refusal :=
  receive 0x05#8 0x01#8 payload ckA ckB s

/-- RX ACK-NACK (R138). -/
def execRxAckNack (payload : List Byte) (ckA ckB : Byte) (s : State) : Host.Outcome State Fault Refusal :=
  receive 0x05#8 0x00#8 payload ckA ckB s

/-- RX MON-VER (R139). -/
def execRxMonVer (payload : List Byte) (ckA ckB : Byte) (s : State) : Host.Outcome State Fault Refusal :=
  receive 0x0A#8 0x04#8 payload ckA ckB s

/-- RX NAV-STATUS (R140). -/
def execRxNavStatus (payload : List Byte) (ckA ckB : Byte) (s : State) : Host.Outcome State Fault Refusal :=
  receive 0x01#8 0x03#8 payload ckA ckB s

/-- RX NAV-TIMEUTC (R141). -/
def execRxNavTimeutc (payload : List Byte) (ckA ckB : Byte) (s : State) : Host.Outcome State Fault Refusal :=
  receive 0x01#8 0x21#8 payload ckA ckB s

/-- RX UBX-OTHER (R142). -/
def execRxUbxOther (cls id : Byte) (payload : List Byte) (ckA ckB : Byte) (s : State) :
    Host.Outcome State Fault Refusal :=
  receive cls id payload ckA ckB s

end Sys2Proof.Machine
end

