-- ==== Sys2Proof/Machine/Session.lean ====
section
/-! DEFINITION. The session controller's pumping and blocking operations (spec/43_session.md R118 to R121, R129, R131, R132). A wait
is a loop that nothing bounds (R178), so the engine's place in it is State.wait, and one call of `drive` runs the iterations for
which the environment has something in store, one more at least (log 1). The host commands pass acceptance first; the internal operations,
run by themselves, check no transport (log 29). -/

namespace Sys2Proof.Machine

/-- WAIT_PENDING's first line: E_WAIT_T0 <- Now() (R132). The loop is then entered for `w`. -/
def startWait (w : Waiter) (s : State) : State := { s.tick with waitT0 := s.tick.now, wait := some w }

/-- SET_MESSAGE_RATE up to its wait (R129): pending is set before the send (90_conflicts.md C1). -/
def startRate (w : Waiter) (c i r : Byte) (s : State) : State :=
  startWait w (sendCfgMsg c i r { s with pending := .awaitingAck })

/-- The NMEA identifiers (spec/30_encoding.md R77), all of class 0xF0. -/
def Nmea.id : Nmea → Byte
  | .gga => 0x00#8 | .gll => 0x01#8 | .gsa => 0x02#8 | .gsv => 0x03#8 | .rmc => 0x04#8 | .vtg => 0x05#8

/-- DISABLE_DEFAULT_NMEA's order (R131). -/
def Nmea.following : Nmea → Option Nmea
  | .gga => some .gll | .gll => some .gsa | .gsa => some .gsv | .gsv => some .rmc | .rmc => some .vtg | .vtg => none

/-- One call of DISABLE_DEFAULT_NMEA: SET_MESSAGE_RATE(0xF0, k, 0) (R131). -/
def startNmea (w : Waiter) (k : Nmea) (s : State) : State := startRate w 0xF0#8 k.id 0x00#8 s

/-- INITIALIZE up to its first wait (R118). -/
def startInit (s : State) : State :=
  startWait .initVersion
    (sendPoll 0x0A#8 0x04#8 { s with eState := .awaitingVersionResponse, pending := .awaitingVersion })

/-- What the waiting operation does with the result of its WAIT_PENDING: it returns it, or goes on to its next part (R118, R120,
R121, R129, R131). The engine has left the wait. -/
def resume (w : Waiter) (r : ResultCode) (s : State) : State :=
  match w with
  | .waitPending => s.answerTo .engine r .none
  | .setMessageRate => s.answerTo .engine r .none
  | .disableNmea k =>
    match k.following with
    | some k' => startNmea (.disableNmea k') k' s
    | none => s
  | .subscribeStatus => s.answer r .none
  | .subscribeTimeutc => s.answer r .none
  | .initVersion =>
    if r = .timeout then State.answer .timeout .none { s with eState := .initializationFailed }
    else startNmea (.initNmea .gga) .gga s
  | .initNmea k =>
    match k.following with
    | some k' => startNmea (.initNmea k') k' s
    | none => State.answer .ok .none { s with eState := .initialized }

/-- The deadline check of one iteration (R132), on the sample just taken. -/
def State.expired (s : State) : Bool := decide (timeoutMs ≤ elapsed s.cfg.clockW s.now s.waitT0)

/-- One iteration of WAIT_PENDING's loop (R132): pump, the pending check, then the clock check (92_eei_decisions.md D4). -/
def waitIteration (w : Waiter) (s : State) : State :=
  let pumped := pump s
  if pumped.pending = .none then resume w .ok { pumped with wait := none }
  else if pumped.tick.expired then
    resume w .timeout (State.raise (.timeout w) { pumped.tick with pending := .none, wait := none })
  else pumped.tick

/-- At most `n` iterations; none once the operation has returned. -/
def drive : Nat → State → State
  | 0, s => s
  | n + 1, s =>
    match s.wait with
    | none => s
    | some w => drive n (waitIteration w s)

/-- Run the wait in progress for as long as the environment has stimulus in store, and one iteration more (log 1). -/
def runWait (s : State) : State := drive (s.pumps.length + 1) s

/-- INITIALIZE (R118). -/
def execInitEngine (s : State) : Host.Outcome State Fault Refusal :=
  accept .initEngine
    (fun s => if s.eState = .initialized then .next (s.answer .ok .none)
      else guardPbuf s.parserInBounds (runWait (startInit s))) s

/-- PROCESS (R119). -/
def execProcess (s : State) : Host.Outcome State Fault Refusal :=
  accept .process (fun s => guardPbuf s.parserInBounds ((pump s).answer .ok .none)) s

/-- SUBSCRIBE_STATUS (R120). -/
def execSubscribeStatus (r : Byte) (s : State) : Host.Outcome State Fault Refusal :=
  accept .subscribeStatus
    (fun s => guardPbuf s.parserInBounds (runWait (startRate .subscribeStatus 0x01#8 0x03#8 r s))) s

/-- SUBSCRIBE_TIMEUTC (R121). -/
def execSubscribeTimeutc (r : Byte) (s : State) : Host.Outcome State Fault Refusal :=
  accept .subscribeTimeutc
    (fun s => guardPbuf s.parserInBounds (runWait (startRate .subscribeTimeutc 0x01#8 0x21#8 r s))) s

/-- SET_MESSAGE_RATE (R129), returning to the engine (log 18). -/
def execSetMessageRate (c i r : Byte) (s : State) : Host.Outcome State Fault Refusal :=
  guardPbuf s.parserInBounds (runWait (startRate .setMessageRate c i r s))

/-- DISABLE_DEFAULT_NMEA (R131). -/
def execDisableDefaultNmea (s : State) : Host.Outcome State Fault Refusal :=
  guardPbuf s.parserInBounds (runWait (startNmea (.disableNmea .gga) .gga s))

/-- WAIT_PENDING (R132), returning to the engine (log 18). -/
def execWaitPending (s : State) : Host.Outcome State Fault Refusal :=
  guardPbuf s.parserInBounds (runWait (startWait .waitPending s))

/-- The next step of a wait in progress (R132, log 1). -/
def continueWait (s : State) : Host.Outcome State Fault Refusal := guardPbuf s.parserInBounds (runWait s)

end Sys2Proof.Machine
end

