-- ==== Sys2Proof/Machine/Fetch.lean ====
section
/-! DEFINITION. Where step finds its next operation. UBX-CORE fetches no stored program (spec/20_memory.md R58): a host command comes
in on the HOST port (spec/00_scope.md R5). What the HOST port cannot carry (an internal code, R74, or a frame) is presented in
`opLatch` (log 6); what stands there runs with no check of E_BOUND (log 29). -/

namespace Sys2Proof.Machine

/-- The next operation's space and tokens, with the state in which it runs: the latch first, then the HOST port, whose entry first
stimulates the ports (spec/30_encoding.md R80). -/
def fetch (s : State) : Option (Space × List Tok × State) :=
  match s.opLatch with
  | some (space, toks) => some (space, toks, { s with opLatch := none })
  | none =>
    match s.hostQ with
    | item :: rest => some (.host, item.command, State.stimulate item.stim { s with hostQ := rest, pumps := item.waits })
    | [] => none

/-- Tokens that encode no operation: on the HOST port ILLEGAL_COMMAND (spec/30_encoding.md R74, log 5); in the latch a refusal (log
24). -/
def undecodable (space : Space) (toks : List Tok) (s : State) : Host.Outcome State Fault Refusal :=
  match space with
  | .host => .next (illegalCommand toks s)
  | .internal | .rx | .tx => .refused .malformedOperation

/-- Put an operation where the next step fetches it: a host command at the head of the HOST port with no stimulus of its own, anything
else in the latch. The engine is between operations. -/
def State.present (s : State) (space : Space) (toks : List Tok) : State :=
  match space with
  | .host => { s with wait := none, opLatch := none, hostQ := ⟨Stim.silent, toks, s.pumps⟩ :: s.hostQ }
  | .internal | .rx | .tx => { s with wait := none, opLatch := some (space, toks) }

end Sys2Proof.Machine
end

