-- ==== Sys2Proof/Machine/Dispatch.lean ====
section
/-! DEFINITION. One arm per instruction: the meaning of each row of spec/opcode_table.json. -/

namespace Sys2Proof.Machine

/-- What an instruction does. -/
def exec (i : Instr) (s : State) : Host.Outcome State Fault Refusal :=
  match i with
  | .bind => Sys2Proof.Machine.execBind s
  | .attachObserver o => Sys2Proof.Machine.execAttachObserver o s
  | .detachObserver => Sys2Proof.Machine.execDetachObserver s
  | .setChecksumPolicy p => Sys2Proof.Machine.execSetChecksumPolicy p s
  | .initEngine => Sys2Proof.Machine.execInitEngine s
  | .process => Sys2Proof.Machine.execProcess s
  | .subscribeStatus r => Sys2Proof.Machine.execSubscribeStatus r s
  | .subscribeTimeutc r => Sys2Proof.Machine.execSubscribeTimeutc r s
  | .requestVersion => Sys2Proof.Machine.execRequestVersion s
  | .requestStatus => Sys2Proof.Machine.execRequestStatus s
  | .requestTimeutc => Sys2Proof.Machine.execRequestTimeutc s
  | .readVersion => Sys2Proof.Machine.execReadVersion s
  | .readTimeutc => Sys2Proof.Machine.execReadTimeutc s
  | .readStatus => Sys2Proof.Machine.execReadStatus s
  | .readInitialized => Sys2Proof.Machine.execReadInitialized s
  | .setMessageRate cls id r => Sys2Proof.Machine.execSetMessageRate cls id r s
  | .pollMessage cls id => Sys2Proof.Machine.execPollMessage cls id s
  | .disableDefaultNmea => Sys2Proof.Machine.execDisableDefaultNmea s
  | .waitPending => Sys2Proof.Machine.execWaitPending s
  | .feed n => Sys2Proof.Machine.execFeed n s
  | .sendFrame cls id payload => Sys2Proof.Machine.execSendFrame cls id payload s
  | .dispatch => Sys2Proof.Machine.execDispatch s
  | .rxAckAck payload ckA ckB => Sys2Proof.Machine.execRxAckAck payload ckA ckB s
  | .rxAckNack payload ckA ckB => Sys2Proof.Machine.execRxAckNack payload ckA ckB s
  | .rxMonVer payload ckA ckB => Sys2Proof.Machine.execRxMonVer payload ckA ckB s
  | .rxNavStatus payload ckA ckB => Sys2Proof.Machine.execRxNavStatus payload ckA ckB s
  | .rxNavTimeutc payload ckA ckB => Sys2Proof.Machine.execRxNavTimeutc payload ckA ckB s
  | .txCfgMsg cls id r => Sys2Proof.Machine.execTxCfgMsg cls id r s
  | .txMonVerPoll => Sys2Proof.Machine.execTxMonVerPoll s
  | .txNavStatusPoll => Sys2Proof.Machine.execTxNavStatusPoll s
  | .txNavTimeutcPoll => Sys2Proof.Machine.execTxNavTimeutcPoll s
  | .rxUbxOther cls id payload ckA ckB => Sys2Proof.Machine.execRxUbxOther cls id payload ckA ckB s

end Sys2Proof.Machine
end

