-- ==== Sys2Proof/Machine/Run.lean ====
section
/-! DEFINITION. Decoding an operation and running it: what step calls once it has fetched. -/

namespace Sys2Proof.Machine

/-- Decode and run. -/
def runDecoded (space : Space) (toks : List Tok) (s : State) : Host.Outcome State Fault Refusal :=
  match decode space toks with
  | .ok i => exec i s
  | .error _ => undecodable space toks s

end Sys2Proof.Machine
end

