-- ==== Sys2Proof/Machine/Step.lean ====
section
/-! DEFINITION. One step of the engine. A wait in progress goes on first: a host command runs to completion before the next is
accepted (spec/00_scope.md R13). Otherwise the next operation is fetched, decoded and run. With no operation to run the engine
does nothing and keeps all state (spec/60_exceptions.md R166, log 20). -/

namespace Sys2Proof.Machine

/-- One step. -/
def step (s : State) : Host.Outcome State Fault Refusal :=
  match s.wait with
  | some _ => continueWait s
  | none =>
    match fetch s with
    | some (space, toks, t) => runDecoded space toks t
    | none => .next s

/-- The state with the instruction of a table word where step fetches its next one (host interface; log 8, log 19). -/
def State.withFetchWord (s : State) (nbits w : Nat) : State :=
  match tableWord nbits w with
  | some (space, toks) => s.present space toks
  | none => s

end Sys2Proof.Machine
end

