-- ==== Sys2Proof/Safety.lean ====
section
/-! DEFINITION. What a good state and a safe step are, in the terms the statements use. -/

namespace Sys2Proof.Machine

/-- The waits that belong to INITIALIZE (spec/43_session.md R118). -/
def Waiter.inInit : Waiter → Bool
  | .initVersion | .initNmea _ => true
  | .waitPending | .setMessageRate | .disableNmea _ | .subscribeStatus | .subscribeTimeutc => false

/-- A stored string of R33: at most `n` bytes, none of them the terminator. -/
def storedString (n : Nat) (str : List Byte) : Prop := str.length ≤ n ∧ ∀ b ∈ str, b ≠ 0#8

/-- The invariant of the machine between steps. -/
structure Inv (s : State) : Prop where
  /-- PBUF is in canonical form. -/
  pbufCanonical : Memory.wf s.parser.pbuf = true
  /-- PBUF has the offsets 0 to MAX_PAYLOAD-1 (spec/10_state.md R24). -/
  pbufInside : ∀ c ∈ s.parser.pbuf, c.1 < s.cfg.maxPayload
  /-- The bound of spec/10_state.md R20. -/
  inBounds : s.parserInBounds = true
  /-- No notification is in progress between steps (spec/44_dispatch.md R144). -/
  notNotifying : s.inNotify = false
  /-- E_PENDING = None between operations (spec/43_session.md R133). -/
  idlePending : s.wait = none → s.pending = .none
  /-- E_PENDING is non-None inside a wait (spec/43_session.md R133). -/
  waitPending : s.wait ≠ none → s.pending ≠ .none
  /-- E_STATE is AwaitingVersionResponse exactly while INITIALIZE waits (spec/43_session.md R134). -/
  awaiting : s.eState = .awaitingVersionResponse ↔ ∃ w, s.wait = some w ∧ w.inInit = true
  /-- INITIALIZE needs the transport (spec/43_session.md R112), so E_STATE leaves Uninitialized only when it is bound. -/
  started : s.eState ≠ .uninitialized → s.bound = true
  /-- Clock samples have CLOCK_W bits (spec/60_exceptions.md R161). -/
  waitT0Width : s.waitT0 < 2 ^ s.cfg.clockW
  tuTimeWidth : s.tu.time < 2 ^ s.cfg.clockW
  stTimeWidth : s.st.time < 2 ^ s.cfg.clockW
  /-- The strings' lengths (spec/10_state.md R33). -/
  swString : storedString 30 s.ver.sw
  hwString : storedString 10 s.ver.hw
  ext0String : storedString 30 s.ver.ext0
  ext1String : storedString 30 s.ver.ext1
  ext2String : storedString 30 s.ver.ext2
  ext3String : storedString 30 s.ver.ext3

/-- A step that stops neither by fault nor by refusal (spec/00_scope.md R13). -/
def SafeStep (s : State) : Prop := ∃ t, step s = .next t

end Sys2Proof.Machine
end

