-- ==== Sys2Proof/Certificates/Slice0/Obligations.lean ====
section
/-! DEFINITION. The statements about UBX-CORE for the provers, one definition each, from the numbered rules of spec/. -/

open Sys2Proof Sys2Proof.Machine

/-! ### Words the statements use -/

namespace Sys2Proof.Statement

/-- Payload byte `k`. -/
def byteAt (p : List Byte) (k : Nat) : Byte := p.getD k 0#8

/-- A little-endian 16-bit field of a payload: the byte at the lower offset is the less significant (spec/20_memory.md R43). -/
def field16 (p : List Byte) (off : Nat) : U16 := byteAt p (off + 1) ++ byteAt p off

/-- A little-endian 32-bit field of a payload. -/
def field32 (p : List Byte) (off : Nat) : U32 := field16 p (off + 2) ++ field16 p off

/-- A string field of a payload: the bytes of the window that the payload has, before the first zero (spec/42_codec.md R109). -/
def fieldString (p : List Byte) (off n : Nat) : List Byte := ((p.drop off).take n).takeWhile (fun b => b != 0#8)

/-- An extension string: the whole slot, or "N/A" (spec/44_dispatch.md R139). -/
def fieldExtension (p : List Byte) (k : Nat) : List Byte :=
  if 70 + 30 * k ≤ p.length then fieldString p (40 + 30 * k) 30 else [0x4E#8, 0x2F#8, 0x41#8]

/-- The strings a MON-VER payload sets (spec/44_dispatch.md R139). -/
def versionOf (p : List Byte) : VersionSnapshot :=
  ⟨fieldString p 0 30, fieldString p 30 10, fieldExtension p 0, fieldExtension p 1, fieldExtension p 2, fieldExtension p 3⟩

/-- The fields a NAV-STATUS payload sets (spec/44_dispatch.md R140). -/
def statusOf (p : List Byte) (time : Nat) : StatusSnapshot :=
  ⟨field32 p 0, byteAt p 4, (byteAt p 5).getLsbD 0, (byteAt p 5).getLsbD 1, (byteAt p 5).getLsbD 2, (byteAt p 5).getLsbD 3, time⟩

/-- The fields a NAV-TIMEUTC payload sets (spec/44_dispatch.md R141). -/
def timeUtcOf (p : List Byte) (time : Nat) : TimeUtcSnapshot :=
  ⟨field32 p 0, field32 p 4, field32 p 8, field16 p 12, byteAt p 14, byteAt p 15, byteAt p 16, byteAt p 17, byteAt p 18,
    (byteAt p 19).getLsbD 0, (byteAt p 19).getLsbD 1, (byteAt p 19).getLsbD 2, time⟩

/-- A result appended. -/
def returned (who : Issuer) (code : ResultCode) (data : ReadData) (s : State) : State :=
  { s with responses := s.responses ++ [⟨who, code, data⟩] }

/-- A command that failed a check: an event, a result, and nothing else (spec/43_session.md R111). -/
def refusedWith (e : Event) (code : ResultCode) (s : State) : State :=
  { s with events := s.events ++ [e], responses := s.responses ++ [⟨s.issuer, code, .none⟩] }

/-- Bytes appended to TX. -/
def sent (bytes : List Byte) (s : State) : State := { s with tx := s.tx ++ bytes }

/-- The buffer `m` holds payload `p` at its start and elsewhere what `old` held. -/
def holdsPayload (old m : List Host.Cell) (p : List Byte) : Prop :=
  Memory.wf m = true ∧ (∀ k, k < p.length → Memory.read m k = byteAt p k) ∧
    ∀ k, p.length ≤ k → Memory.read m k = Memory.read old k

/-- The state with a frame in the parser registers, as P_STATE is about to leave ChecksumB (spec/10_state.md R23). -/
def withFrame (s : State) (cls id : Byte) (p : List Byte) (ckA ckB : Byte) (m : List Host.Cell) : State :=
  { s with
    parser :=
      { state := .checksumB, cls := cls, id := id, len := BitVec.ofNat 16 p.length, idx := BitVec.ofNat 16 p.length,
        ckA := ckA, ckB := ckB, pbuf := m } }

/-- The parser back at a frame boundary (spec/41_frame_parser.md R97, R98). -/
def released (s : State) : State := { s with parser := { s.parser with state := .waitHeader1, idx := 0#16 } }

/-- The state can take in the frame: the parser is at a frame boundary, PBUF is canonical and large enough, and the policy
accepts the checksum bytes. -/
def takesFrame (s : State) (cls id : Byte) (p : List Byte) (ckA ckB : Byte) : Prop :=
  s.parser.state = .waitHeader1 ∧ Memory.wf s.parser.pbuf = true ∧ p.length ≤ s.cfg.maxPayload ∧
    (s.policy = .permissive ∨ (ckA, ckB) = checksum cls id (BitVec.ofNat 16 p.length) p)

/-- The clock after one Now(). -/
def sampled (s : State) : State := { s with clk := s.clk + s.ticks.headD 0, ticks := s.ticks.tail }

/-- A command that needs the transport passes acceptance when issued by the host (spec/43_session.md R111). -/
def hostMayPump (s : State) : Prop := s.inNotify = false ∧ s.bound = true ∧ s.parserInBounds = true

/-- Nothing arrives, and the next time the environment acts, `d` ms pass, which is long enough for a timeout and shorter than
one turn of the clock. -/
def silentFor (s : State) (d : Nat) (rest : List Stim) : Prop :=
  s.rx = [] ∧ s.ticks = [] ∧ s.pumps = ⟨[], d⟩ :: rest ∧ 5000 ≤ d ∧ d < 2 ^ s.cfg.clockW

/-- A frame whose handler clears E_PENDING (spec/20_memory.md R57). -/
def clearsPending (cls id : Byte) : Prop :=
  (cls = 0x05#8 ∧ id = 0x01#8) ∨ (cls = 0x05#8 ∧ id = 0x00#8) ∨ (cls = 0x0A#8 ∧ id = 0x04#8)

/-- The environment's next act brings exactly one correct frame that clears E_PENDING. -/
def isReply (maxPayload : Nat) (st : Stim) : Prop :=
  ∃ cls id p, clearsPending cls id ∧ p.length ≤ maxPayload ∧ st.rx = encodeFrame cls id p

/-- A CFG-MSG request that nothing answered: its frame is sent, and the wait has timed out (spec/43_session.md R129, R132). -/
def timedOut (s : State) (d : Nat) (rest : List Stim) (w : Waiter) (payload : List Byte) : State :=
  { s with
    pending := .none
    wait := none
    waitT0 := s.clk % 2 ^ s.cfg.clockW
    clk := s.clk + d
    pumps := rest
    tx := s.tx ++ encodeFrame 0x06#8 0x01#8 payload
    events := s.events ++ [.timeout w] }

/-- From `s`, one wait was answered in its first pump: `who` has got OK, nothing is pending, and, when no observer is attached,
`bytes` have been sent and nothing but a version snapshot can have changed beside the clock and the parser. -/
def answered (s t : State) (rest : List Stim) (who : Issuer) (bytes : List Byte) : Prop :=
  t.responses.getLast? = some ⟨who, .ok, .none⟩ ∧ t.pending = .none ∧ t.wait = none ∧ t.eState = s.eState ∧
    t.bound = s.bound ∧ t.pumps = rest ∧ t.rx = [] ∧ t.parser.state = .waitHeader1 ∧
    (s.obs = none → t.tx = s.tx ++ bytes ∧ t.notes = s.notes ∧ t.st = s.st ∧ t.tu = s.tu ∧ t.policy = s.policy)

/-- What 60_exceptions.md R162 calls elapsed, at the present time, in a wait that stands at E_WAIT_T0. -/
def waited (s : State) : Nat := (s.clk % 2 ^ s.cfg.clockW + 2 ^ s.cfg.clockW - s.waitT0) % 2 ^ s.cfg.clockW

/-- Nothing arrives and no time passes but before the coming pumps, `ms` in all. -/
def quiet (s : State) (ms : Nat) : Prop :=
  s.rx = [] ∧ s.ticks = [] ∧ (∀ st ∈ s.pumps, st.rx = []) ∧ (s.pumps.map Stim.clk).sum = ms

/-- A CFG-MSG request as it stands at the start of its wait (spec/43_session.md R129, R132): pending set, the frame sent, and then one
Now(), whose value E_WAIT_T0 holds (92_eei_decisions.md D5). -/
def requested (w : Waiter) (c i r : Byte) (s : State) : State :=
  { sampled s with
    pending := .awaitingAck
    tx := s.tx ++ encodeFrame 0x06#8 0x01#8 [c, i, r]
    waitT0 := (sampled s).clk % 2 ^ s.cfg.clockW
    wait := some w }

/-- What the operation that waited does next with its wait's result, once the wait is over (spec/43_session.md R118, R120, R121,
R129, R131): it returns, or sends its next request and waits again. -/
def afterWait (w : Waiter) (r : ResultCode) (s : State) : State :=
  match w with
  | .waitPending | .setMessageRate => returned .engine r .none s
  | .subscribeStatus | .subscribeTimeutc => returned s.issuer r .none s
  | .disableNmea .gga => requested (.disableNmea .gll) 0xF0#8 0x01#8 0x00#8 s
  | .disableNmea .gll => requested (.disableNmea .gsa) 0xF0#8 0x02#8 0x00#8 s
  | .disableNmea .gsa => requested (.disableNmea .gsv) 0xF0#8 0x03#8 0x00#8 s
  | .disableNmea .gsv => requested (.disableNmea .rmc) 0xF0#8 0x04#8 0x00#8 s
  | .disableNmea .rmc => requested (.disableNmea .vtg) 0xF0#8 0x05#8 0x00#8 s
  | .disableNmea .vtg => s
  | .initVersion =>
    if r = .timeout then returned s.issuer .timeout .none { s with eState := .initializationFailed }
    else requested (.initNmea .gga) 0xF0#8 0x00#8 0x00#8 s
  | .initNmea .gga => requested (.initNmea .gll) 0xF0#8 0x01#8 0x00#8 s
  | .initNmea .gll => requested (.initNmea .gsa) 0xF0#8 0x02#8 0x00#8 s
  | .initNmea .gsa => requested (.initNmea .gsv) 0xF0#8 0x03#8 0x00#8 s
  | .initNmea .gsv => requested (.initNmea .rmc) 0xF0#8 0x04#8 0x00#8 s
  | .initNmea .rmc => requested (.initNmea .vtg) 0xF0#8 0x05#8 0x00#8 s
  | .initNmea .vtg => returned s.issuer .ok .none { s with eState := .initialized }

/-- A wait that timed out: the event recorded, pending cleared, the wait left (spec/43_session.md R132). -/
def expired (w : Waiter) (s : State) : State :=
  { s with pending := .none, wait := none, events := s.events ++ [.timeout w] }

/-- How a step goes on after an iteration has led to `u`: with `u` itself when no wait is left, else as a step from `u` (log 1). -/
def onward (u : State) : Host.Outcome State Fault Refusal := if u.wait = none then .next u else step u

/-- `bytes` have been sent, the wait of `w` has started, and after `ms` it still goes on with `p` pending (log 1). -/
def stillWaiting (s : State) (ms : Nat) (w : Waiter) (p : Pending) (bytes : List Byte) : State :=
  { s with
    pending := p
    wait := some w
    waitT0 := s.clk % 2 ^ s.cfg.clockW
    clk := s.clk + ms
    pumps := []
    tx := s.tx ++ bytes }

/-- The six frames of DISABLE_DEFAULT_NMEA, written out (spec/30_encoding.md R77). -/
def nmeaFrames : List Byte :=
  [0xB5#8, 0x62#8, 0x06#8, 0x01#8, 0x03#8, 0x00#8, 0xF0#8, 0x00#8, 0x00#8, 0xFA#8, 0x0F#8,
   0xB5#8, 0x62#8, 0x06#8, 0x01#8, 0x03#8, 0x00#8, 0xF0#8, 0x01#8, 0x00#8, 0xFB#8, 0x11#8,
   0xB5#8, 0x62#8, 0x06#8, 0x01#8, 0x03#8, 0x00#8, 0xF0#8, 0x02#8, 0x00#8, 0xFC#8, 0x13#8,
   0xB5#8, 0x62#8, 0x06#8, 0x01#8, 0x03#8, 0x00#8, 0xF0#8, 0x03#8, 0x00#8, 0xFD#8, 0x15#8,
   0xB5#8, 0x62#8, 0x06#8, 0x01#8, 0x03#8, 0x00#8, 0xF0#8, 0x04#8, 0x00#8, 0xFE#8, 0x17#8,
   0xB5#8, 0x62#8, 0x06#8, 0x01#8, 0x03#8, 0x00#8, 0xF0#8, 0x05#8, 0x00#8, 0xFF#8, 0x19#8]

/-- The MON-VER poll, written out (spec/42_codec.md R103). -/
def verPoll : List Byte := [0xB5#8, 0x62#8, 0x0A#8, 0x04#8, 0x00#8, 0x00#8, 0x0E#8, 0x34#8]

/-- The NAV-STATUS poll, written out (spec/43_session.md R123). -/
def statusPoll : List Byte := [0xB5#8, 0x62#8, 0x01#8, 0x03#8, 0x00#8, 0x00#8, 0x04#8, 0x0D#8]

/-- The NAV-TIMEUTC poll, written out (spec/43_session.md R124). -/
def timeUtcPoll : List Byte := [0xB5#8, 0x62#8, 0x01#8, 0x21#8, 0x00#8, 0x00#8, 0x22#8, 0x67#8]

/-- From `s`, INITIALIZE has returned OK with E_STATE = Initialized; `timeouts` are the last events, and, when no observer is attached,
the MON-VER poll and the six NMEA frames have been sent and nothing but a version snapshot can have changed beside the clock and the
parser. -/
def initialized (s t : State) (rest : List Stim) (timeouts : List Event) : Prop :=
  t.eState = .initialized ∧ t.pending = .none ∧ t.wait = none ∧ t.pumps = rest ∧ t.rx = [] ∧ t.parser.state = .waitHeader1 ∧
    t.bound = s.bound ∧ t.inNotify = s.inNotify ∧ t.cfg = s.cfg ∧ t.responses.getLast? = some ⟨.host, .ok, .none⟩ ∧
    timeouts <:+ t.events ∧
    (s.obs = none → t.tx = s.tx ++ verPoll ++ nmeaFrames ∧ t.notes = s.notes ∧ t.st = s.st ∧ t.tu = s.tu ∧
      t.policy = s.policy ∧ t.obs = none ∧ t.events = s.events ++ timeouts)

end Sys2Proof.Statement

open Sys2Proof.Statement

/-! ### Reset -/

/-- 10_state.md R38 to R40: every element's reset value, for every choice of the parameters. All but E_STATE, CK_POLICY and E_BOUND
are the spec's own decision D11. -/
def Obligations.ResetHasTheResetTableValues : Prop :=
  ∀ cfg : Config, ∀ s : State, s = State.resetWith cfg →
    s.eState = .uninitialized ∧ s.policy = .permissive ∧ s.pending = .none ∧ s.bound = false ∧ s.obs = none ∧
    s.inNotify = false ∧ s.waitT0 = 0 ∧ s.parser.state = .waitHeader1 ∧ s.parser.cls = 0#8 ∧ s.parser.id = 0#8 ∧
    s.parser.len = 0#16 ∧ s.parser.idx = 0#16 ∧ s.parser.ckA = 0#8 ∧ s.parser.ckB = 0#8 ∧
    (∀ k, Memory.read s.parser.pbuf k = 0#8) ∧
    s.ver = ⟨[], [], [], [], [], []⟩ ∧
    s.tu = ⟨0#32, 0#32, 0#32, 0#16, 0#8, 0#8, 0#8, 0#8, 0#8, false, false, false, 0⟩ ∧
    s.st = ⟨0#32, 0#8, false, false, false, false, 0⟩

/-! ### Configuration commands, polls and accessors -/

/-- R114. That BIND also puts the parser at a frame boundary is the spec's own decision D22, its opcode
D20. -/
def Obligations.BindStartsAtAFrameBoundary : Prop :=
  encode .bind = [.byte 0x01#8] ∧
  ∀ s : State,
    (s.inNotify = false →
      exec .bind s = .next (returned .host .ok .none
        { s with bound := true, parser := { s.parser with state := .waitHeader1, idx := 0#16 } })) ∧
    (s.inNotify = true → exec .bind s = .next (refusedWith (.reentrant .bind) .reentrant s))

/-- R115, R116, in a notification or not. The opcodes are the spec's own decision D20. -/
def Obligations.ObserverSlotIsReplacedAndCleared : Prop :=
  (∀ o, encode (.attachObserver o) = [.byte 0x02#8, .obs o]) ∧ encode .detachObserver = [.byte 0x03#8] ∧
  ∀ s : State,
    (∀ o, exec (.attachObserver o) s = .next (returned s.issuer .ok .none { s with obs := some o })) ∧
    exec .detachObserver s = .next (returned s.issuer .ok .none { s with obs := none })

/-- R117, R74; the command form is the spec's own decision D20, D23. -/
def Obligations.ChecksumPolicyTakesOnlyZeroAndOne : Prop :=
  ∀ s : State,
    exec (.setChecksumPolicy 0#8) s = .next (returned s.issuer .ok .none { s with policy := .permissive }) ∧
    exec (.setChecksumPolicy 1#8) s = .next (returned s.issuer .ok .none { s with policy := .strict }) ∧
    ∀ p : Byte, 1 < p.toNat →
      exec (.setChecksumPolicy p) s = .next (refusedWith (.illegalCommand [.byte 0x04#8, .byte p]) .illegalCommand s)

/-- R122 to R124: each request writes its poll, byte for byte, and returns OK; unbound it fails. Which (class, id) each one
targets is the spec's own decision D41, the opcodes D20. -/
def Obligations.RequestsWriteTheirPolls : Prop :=
  encode .requestVersion = [.byte 0x20#8] ∧ encode .requestStatus = [.byte 0x21#8] ∧
  encode .requestTimeutc = [.byte 0x22#8] ∧
  ∀ s : State,
    (s.bound = true →
      exec .requestVersion s = .next (returned s.issuer .ok .none (sent verPoll s)) ∧
      exec .requestStatus s = .next (returned s.issuer .ok .none (sent statusPoll s)) ∧
      exec .requestTimeutc s = .next (returned s.issuer .ok .none (sent timeUtcPoll s))) ∧
    (s.bound = false →
      exec .requestVersion s = .next (refusedWith (.transportUnbound .requestVersion) .transportUnbound s) ∧
      exec .requestStatus s = .next (refusedWith (.transportUnbound .requestStatus) .transportUnbound s) ∧
      exec .requestTimeutc s = .next (refusedWith (.transportUnbound .requestTimeutc) .transportUnbound s))

/-- R125 to R128: each accessor returns its snapshot and changes nothing else, bound or not, in a notification or not. The opcodes are
the spec's own decision D20. -/
def Obligations.AccessorsReturnTheSnapshots : Prop :=
  encode .readVersion = [.byte 0x30#8] ∧ encode .readTimeutc = [.byte 0x31#8] ∧ encode .readStatus = [.byte 0x32#8] ∧
  encode .readInitialized = [.byte 0x33#8] ∧
  ∀ s : State,
    exec .readVersion s = .next (returned s.issuer .ok (.version s.ver) s) ∧
    exec .readTimeutc s = .next (returned s.issuer .ok (.timeUtc s.tu) s) ∧
    exec .readStatus s = .next (returned s.issuer .ok (.status s.st) s) ∧
    (s.eState = .initialized → exec .readInitialized s = .next (returned s.issuer .ok (.initialized true) s)) ∧
    (s.eState ≠ .initialized → exec .readInitialized s = .next (returned s.issuer .ok (.initialized false) s))

/-! ### Acceptance -/

/-- R113, R153: inside a notification the five commands of REFUSED_IN_NOTIFY return REENTRANT and change nothing (the spec's own
decision D19). -/
def Obligations.BlockingCallsInANotificationAreReentrant : Prop :=
  ∀ s : State, s.inNotify = true →
    exec .initEngine s = .next (refusedWith (.reentrant .initEngine) .reentrant s) ∧
    (∀ r, exec (.subscribeStatus r) s = .next (refusedWith (.reentrant .subscribeStatus) .reentrant s)) ∧
    (∀ r, exec (.subscribeTimeutc r) s = .next (refusedWith (.reentrant .subscribeTimeutc) .reentrant s)) ∧
    exec .process s = .next (refusedWith (.reentrant .process) .reentrant s) ∧
    exec .bind s = .next (refusedWith (.reentrant .bind) .reentrant s)

/-- R152: unbound, the commands of NEEDS_TRANSPORT return TRANSPORT_UNBOUND and change nothing. In a notification those that R113
refuses there fail the earlier check of R111 instead. -/
def Obligations.TransportCommandsFailWhileUnbound : Prop :=
  ∀ s : State, s.bound = false →
    (s.inNotify = false →
      exec .initEngine s = .next (refusedWith (.transportUnbound .initEngine) .transportUnbound s) ∧
      exec .process s = .next (refusedWith (.transportUnbound .process) .transportUnbound s) ∧
      ∀ r,
        exec (.subscribeStatus r) s = .next (refusedWith (.transportUnbound .subscribeStatus) .transportUnbound s) ∧
        exec (.subscribeTimeutc r) s = .next (refusedWith (.transportUnbound .subscribeTimeutc) .transportUnbound s)) ∧
    exec .requestVersion s = .next (refusedWith (.transportUnbound .requestVersion) .transportUnbound s) ∧
    exec .requestStatus s = .next (refusedWith (.transportUnbound .requestStatus) .transportUnbound s) ∧
    exec .requestTimeutc s = .next (refusedWith (.transportUnbound .requestTimeutc) .transportUnbound s)

/-- R74, R154: on the HOST port an opcode R71 does not list (0x00, the gaps, the internal codes) and a SET_CHECKSUM_POLICY operand
above 1 complete with ILLEGAL_COMMAND and no other effect (the spec's own decision D20). So do, by the model's choice (log 5), all
other tokens that do not decode (a listed opcode whose operands are missing, superfluous or of the wrong kind, an entry without an
opcode), on the HOST port and from the observer alike. -/
def Obligations.IllegalHostCommandHasNoEffect : Prop :=
  (∀ (s : State) (stim : Stim) (command : List Tok) (waits : List Stim) (rest : List HostItem),
    s.wait = none → s.opLatch = none → s.hostQ = ⟨stim, command, waits⟩ :: rest →
    ((∃ op operands, command = .byte op :: operands ∧
        op ∉ [0x01#8, 0x02#8, 0x03#8, 0x04#8, 0x10#8, 0x11#8, 0x12#8, 0x13#8, 0x20#8, 0x21#8, 0x22#8, 0x30#8, 0x31#8,
          0x32#8, 0x33#8]) ∨
      (∃ p : Byte, command = [.byte 0x04#8, .byte p] ∧ 1 < p.toNat) ∨ ∃ e, decode .host command = .error e) →
    step s = .next (refusedWith (.illegalCommand command) .illegalCommand
      { s with hostQ := rest, pumps := waits, rx := s.rx ++ stim.rx, clk := s.clk + stim.clk })) ∧
  (∀ op ∈ [0x01#8, 0x03#8, 0x10#8, 0x11#8, 0x20#8, 0x21#8, 0x22#8, 0x30#8, 0x31#8, 0x32#8, 0x33#8], ∀ t extra,
    ∃ e, decode .host (.byte op :: t :: extra) = .error e) ∧
  (∀ op ∈ [0x04#8, 0x12#8, 0x13#8], ∀ operands, (∀ p : Byte, operands ≠ [.byte p]) →
    ∃ e, decode .host (.byte op :: operands) = .error e) ∧
  (∀ operands, (∀ o, operands ≠ [.obs o]) → ∃ e, decode .host (.byte 0x02#8 :: operands) = .error e) ∧
  (∀ command, (∀ op operands, command ≠ .byte op :: operands) → ∃ e, decode .host command = .error e) ∧
  ∀ (s : State) (command : List Tok) (e : DecodeError), decode .host command = .error e →
    observerCommand s command = refusedWith (.illegalCommand command) .illegalCommand s

/-! ### Steps -/

/-- The model's choice (log 1, 6, 19, 20): a step runs the operation it fetches and decodes, a latched one as it is, a host command
after its stimulus; a wait in progress goes on first (R13), and with nothing to do the engine keeps all state (R166). -/
def Obligations.StepRunsTheDecodedOperation : Prop :=
  (∀ (s : State) (space : Space) (toks : List Tok) (i : Instr), s.wait = none → s.opLatch = some (space, toks) →
    decode space toks = .ok i → step s = exec i { s with opLatch := none }) ∧
  (∀ (s : State) (stim : Stim) (toks : List Tok) (waits : List Stim) (rest : List HostItem) (i : Instr),
    s.wait = none → s.opLatch = none → s.hostQ = ⟨stim, toks, waits⟩ :: rest → decode .host toks = .ok i →
    step s = exec i { s with hostQ := rest, pumps := waits, rx := s.rx ++ stim.rx, clk := s.clk + stim.clk }) ∧
  (∀ s : State, s.wait = none → s.opLatch = none → s.hostQ = [] → step s = .next s) ∧
  ∀ (s : State) (w : Waiter), s.wait = some w → s.parserInBounds = true → step s = .next (runWait s)

/-! ### Encodings -/

/-- Words written out from R60, R65, R71, R72 and R77 decode to the instructions they stand for. -/
def Obligations.WrittenOutWordsDecode : Prop :=
  decode .host [.byte 0x12#8, .byte 0x05#8] = .ok (.subscribeStatus 0x05#8) ∧
  decode .host [.byte 0x02#8, .obs 7] = .ok (.attachObserver 7) ∧
  decode .internal [.byte 0x80#8, .byte 0xF0#8, .byte 0x02#8, .byte 0x00#8] =
    .ok (.setMessageRate 0xF0#8 0x02#8 0x00#8) ∧
  decode .rx [.byte 0xB5#8, .byte 0x62#8, .byte 0x05#8, .byte 0x01#8, .byte 0x02#8, .byte 0x00#8, .byte 0x06#8,
    .byte 0x01#8, .byte 0x0F#8, .byte 0x38#8] = .ok (.rxAckAck [0x06#8, 0x01#8] 0x0F#8 0x38#8) ∧
  decode .tx [.byte 0xB5#8, .byte 0x62#8, .byte 0x06#8, .byte 0x01#8, .byte 0x03#8, .byte 0x00#8, .byte 0xF0#8,
    .byte 0x01#8, .byte 0x00#8, .byte 0xFB#8, .byte 0x11#8] = .ok (.txCfgMsg 0xF0#8 0x01#8 0x00#8)

/-- Decoding an encoded well-formed instruction gives it back, for every instruction and every operand. -/
def Obligations.DecodeUndoesEncode : Prop := ∀ i : Instr, i.WellFormed → decode i.space (encode i) = .ok i

/-- Whatever decodes is well-formed, belongs to the space it was read from, and encodes to the tokens it came from: no two token
sequences stand for one instruction. -/
def Obligations.EncodeUndoesDecode : Prop :=
  ∀ (space : Space) (toks : List Tok) (i : Instr), decode space toks = .ok i →
    i.WellFormed ∧ i.space = space ∧ encode i = toks

/-- R74: no internal operation and no frame is a command on the HOST port. -/
def Obligations.HostPortAcceptsOnlyHostCommands : Prop :=
  ∀ i : Instr, i.space ≠ .host → ∃ b, decode .host (encode i) = .error (.unlistedOpcode b)

/-! ### ChecksumEngine and MessageCodec -/

/-- R81: both sums in closed form. The first is the sum of the bytes mod 256; in the second the k-th of n bytes counts n - k
times. -/
def Obligations.ChecksumIsTheTwoRunningSums : Prop :=
  ∀ (cls id : Byte) (len : U16) (payload : List Byte),
    let input := [cls, id, loByte len, hiByte len] ++ payload
    (checksum cls id len payload).1.toNat = (input.map BitVec.toNat).sum % 256 ∧
    (checksum cls id len payload).2.toNat =
      (input.mapIdx (fun k b => (input.length - k) * b.toNat)).sum % 256

/-- R102, R60: the layout of an encoded frame, offset by offset. -/
def Obligations.EncodedFrameHasTheWireLayout : Prop :=
  ∀ (c i : Byte) (p : List Byte), p.length ≤ 65535 →
    let f := encodeFrame c i p
    let ck := checksum c i (BitVec.ofNat 16 p.length) p
    f.length = 8 + p.length ∧ f[0]? = some 0xB5#8 ∧ f[1]? = some 0x62#8 ∧ f[2]? = some c ∧ f[3]? = some i ∧
    f[4]? = some (BitVec.ofNat 8 (p.length % 256)) ∧ f[5]? = some (BitVec.ofNat 8 (p.length / 256)) ∧
    (∀ k, k < p.length → f[6 + k]? = p[k]?) ∧ f[6 + p.length]? = some ck.1 ∧ f[7 + p.length]? = some ck.2

/-- R103, R130, R62, R63: what the sending operations and the transmitted frames do, and that they change TX only. That running a
transmitted frame's row writes the frame is the model's choice (log 28); so is that POLL_MESSAGE, run by itself, records its OK for
the engine (log 18), and that these rows need no transport (log 29). -/
def Obligations.SendersAppendTheirFrame : Prop :=
  ∀ s : State,
    (∀ c i p, p.length ≤ 65535 → exec (.sendFrame c i p) s = .next (sent (encodeFrame c i p) s)) ∧
    (∀ c i, exec (.pollMessage c i) s = .next (returned .engine .ok .none (sent (encodeFrame c i []) s))) ∧
    (∀ c i r, exec (.txCfgMsg c i r) s = .next (sent (encodeFrame 0x06#8 0x01#8 [c, i, r]) s)) ∧
    exec .txMonVerPoll s = .next (sent verPoll s) ∧ exec .txNavStatusPoll s = .next (sent statusPoll s) ∧
    exec .txNavTimeutcPoll s = .next (sent timeUtcPoll s)

/-! ### FrameParser

FEED run by itself needs no transport (log 29, the model's choice). -/

/-- R89, R90: the header steps, for every byte. That a mismatching 0xB5 is not looked at again is the spec's own decision D7. That FEED
run by itself needs no transport is the model's choice (log 29). -/
def Obligations.HeaderBytesAreMatched : Prop :=
  ∀ (s : State) (b : Byte) (rest : List Byte), s.rx = b :: rest →
    (s.parser.state = .waitHeader1 → b = 0xB5#8 →
      exec (.feed 1) s =
        .next { s with rx := rest, parser := { s.parser with idx := 0#16, state := .waitHeader2 } }) ∧
    (s.parser.state = .waitHeader1 → b ≠ 0xB5#8 →
      exec (.feed 1) s = .next { s with rx := rest, events := s.events ++ [.noise b] }) ∧
    (s.parser.state = .waitHeader2 → b = 0x62#8 →
      exec (.feed 1) s = .next { s with rx := rest, parser := { s.parser with state := .cls } }) ∧
    (s.parser.state = .waitHeader2 → b ≠ 0x62#8 →
      exec (.feed 1) s = .next { s with rx := rest, events := s.events ++ [.resyncHdr2 b],
                                        parser := { s.parser with state := .waitHeader1 } })

/-- R91 to R93 and R96: the steps that capture a byte, whatever it is. That FEED run by itself needs no transport is the model's choice
(log 29). -/
def Obligations.FieldBytesAreCaptured : Prop :=
  ∀ (s : State) (b : Byte) (rest : List Byte), s.rx = b :: rest →
    (s.parser.state = .cls →
      exec (.feed 1) s = .next { s with rx := rest, parser := { s.parser with cls := b, state := .id } }) ∧
    (s.parser.state = .id →
      exec (.feed 1) s = .next { s with rx := rest, parser := { s.parser with id := b, state := .lenLow } }) ∧
    (s.parser.state = .lenLow →
      exec (.feed 1) s =
        .next { s with rx := rest, parser := { s.parser with len := BitVec.ofNat 16 b.toNat, state := .lenHigh } }) ∧
    (s.parser.state = .checksumA → s.parser.len.toNat ≤ s.cfg.maxPayload →
      exec (.feed 1) s = .next { s with rx := rest, parser := { s.parser with ckA := b, state := .checksumB } })

/-- R94, R149: the high length byte. `len` is the assembled length. That FEED run by itself needs no transport is the model's choice
(log 29). -/
def Obligations.LengthIsCheckedAgainstMaxPayload : Prop :=
  ∀ (s : State) (b : Byte) (rest : List Byte) (len : U16), s.rx = b :: rest → s.parser.state = .lenHigh →
    len = BitVec.ofNat 16 (b.toNat * 256 + s.parser.len.toNat % 256) →
    (s.cfg.maxPayload < len.toNat →
      exec (.feed 1) s = .next { s with rx := rest, events := s.events ++ [.oversize len],
                                        parser := { s.parser with len := len, state := .waitHeader1 } }) ∧
    (len.toNat ≤ s.cfg.maxPayload → len = 0#16 →
      exec (.feed 1) s = .next { s with rx := rest, parser := { s.parser with len := len, state := .checksumA } }) ∧
    (len.toNat ≤ s.cfg.maxPayload → len ≠ 0#16 →
      exec (.feed 1) s =
        .next { s with rx := rest, parser := { s.parser with len := len, idx := 0#16, state := .payload } })

/-- R95, R48: a payload byte goes to PBUF[P_IDX], and only there. That FEED run by itself needs no transport is the model's choice (log
29). -/
def Obligations.PayloadBytesFillTheBufferInOrder : Prop :=
  ∀ (s : State) (b : Byte) (rest : List Byte), s.rx = b :: rest → s.parser.state = .payload →
    s.parser.idx.toNat < s.parser.len.toNat → s.parser.len.toNat ≤ s.cfg.maxPayload →
    Memory.wf s.parser.pbuf = true →
    ∃ m, Memory.wf m = true ∧ Memory.read m s.parser.idx.toNat = b ∧
      (∀ k, k ≠ s.parser.idx.toNat → Memory.read m k = Memory.read s.parser.pbuf k) ∧
      (s.parser.idx.toNat + 1 = s.parser.len.toNat →
        exec (.feed 1) s = .next { s with rx := rest,
                                          parser := { s.parser with pbuf := m, idx := s.parser.len, state := .checksumA } }) ∧
      (s.parser.idx.toNat + 1 ≠ s.parser.len.toNat →
        exec (.feed 1) s = .next { s with rx := rest,
                                          parser := { s.parser with pbuf := m, idx := s.parser.idx + 1#16 } })

/-- R97: the last byte completes the frame. DISPATCH runs when the policy accepts the frame, and not otherwise; either way the parser
is then at a frame boundary. `f` is the state with the frame complete. That a frame dropped under Strict is not notified is the spec's
own decision D17. That FEED and DISPATCH run by themselves need no transport is the model's choice (log 29). -/
def Obligations.LastByteValidatesThenDispatches : Prop :=
  ∀ (s f : State) (b : Byte) (rest : List Byte), s.rx = b :: rest → s.parser.state = .checksumB →
    s.parser.len.toNat ≤ s.cfg.maxPayload →
    f = { s with rx := rest, parser := { s.parser with ckB := b } } →
    (s.policy = .permissive ∨ checksum f.parser.cls f.parser.id f.parser.len f.payload = (f.parser.ckA, f.parser.ckB) →
      ∃ d, exec .dispatch f = .next d ∧ exec (.feed 1) s = .next (released d)) ∧
    (s.policy = .strict → checksum f.parser.cls f.parser.id f.parser.len f.payload ≠ (f.parser.ckA, f.parser.ckB) →
      exec (.feed 1) s = .next (released { f with events := f.events ++ [.checksumMismatch f.parser.cls f.parser.id] }))

/-- R87: FEED(n) consumes exactly n bytes, for every n the transport has, and never stops; it leaves the session's place, the
transport's and the host's pending inputs alone. That FEED run by itself needs no transport is the model's choice (log 29). -/
def Obligations.FeedConsumesExactlyItsCount : Prop :=
  ∀ (s : State) (n : Nat), n ≤ s.rx.length → s.parserInBounds = true →
    ∃ t, exec (.feed n) s = .next t ∧ t.rx = s.rx.drop n ∧ t.cfg = s.cfg ∧ t.eState = s.eState ∧ t.bound = s.bound ∧
      t.waitT0 = s.waitT0 ∧ t.wait = s.wait ∧ t.pumps = s.pumps ∧ t.hostQ = s.hostQ ∧ t.opLatch = s.opLatch ∧
      (t.pending = s.pending ∨ t.pending = .none)

/-- R163: FEED never reads more than RX has ready; a count above it is refused (log 10, the model's choice). That FEED run by itself
needs no transport is the model's choice (log 29). -/
def Obligations.FeedBeyondTheReadyBytesIsRefused : Prop :=
  ∀ (s : State) (n : Nat), s.rx.length < n → exec (.feed n) s = .refused .rxReadBeyondAvail

/-- R87, R100: one FEED of a + b bytes is a FEED of a bytes and then one of b, wherever the split falls. That FEED run by itself needs
no transport is the model's choice (log 29). -/
def Obligations.SplitFeedsConsumeAsOne : Prop :=
  ∀ (s : State) (a b : Nat), a + b ≤ s.rx.length → s.parserInBounds = true →
    ∃ t u, exec (.feed a) s = .next t ∧ exec (.feed b) t = .next u ∧ exec (.feed (a + b)) s = .next u

/-- R101: an encoded frame, fed from WaitHeader1 under either policy, is dispatched once, with its class, id, length and payload in the
parser registers, and leaves the parser at a frame boundary. The attached observer gets exactly one notification. That FEED run by
itself needs no transport is the model's choice (log 29). -/
def Obligations.EncodedFrameComesBackThroughTheParser : Prop :=
  ∀ (s : State) (cls id : Byte) (p rest : List Byte), s.parser.state = .waitHeader1 →
    Memory.wf s.parser.pbuf = true → p.length ≤ s.cfg.maxPayload → s.rx = encodeFrame cls id p ++ rest →
    ∃ m d, holdsPayload s.parser.pbuf m p ∧
      exec .dispatch (withFrame { s with rx := rest } cls id p (checksum cls id (BitVec.ofNat 16 p.length) p).1
        (checksum cls id (BitVec.ofNat 16 p.length) p).2 m) = .next d ∧
      exec (.feed (p.length + 8)) s = .next (released d) ∧
      (released d).parser.state = .waitHeader1 ∧ d.rx = rest ∧
      (s.obs = none → d.notes = s.notes) ∧
      ∀ o, s.obs = some o → d.notes = s.notes ++ [⟨o, cls, id, BitVec.ofNat 16 p.length, p⟩]

/-- R89, R155 and 95_test_vectors.md L1-3: noise without a header byte contributes nothing but its events, and the frame behind it is
dispatched as if it stood alone. That FEED run by itself needs no transport is the model's choice (log 29). -/
def Obligations.NoiseBeforeAFrameIsDiscarded : Prop :=
  ∀ (s : State) (noise rest : List Byte), s.parser.state = .waitHeader1 → (∀ b ∈ noise, b ≠ 0xB5#8) →
    s.rx = noise ++ rest →
    exec (.feed noise.length) s = .next { s with rx := rest, events := s.events ++ noise.map Event.noise }

/-- R176 (the spec's own decision D7): of B5 B5 62 the second B5 is not taken as a header; the parser is back at WaitHeader1. That FEED
run by itself needs no transport is the model's choice (log 29). -/
def Obligations.HeaderTwoNearMissLosesTheFrame : Prop :=
  ∀ (s : State) (rest : List Byte), s.parser.state = .waitHeader1 → s.rx = 0xB5#8 :: 0xB5#8 :: 0x62#8 :: rest →
    exec (.feed 3) s =
      .next { s with rx := rest, events := s.events ++ [.resyncHdr2 0xB5#8, .noise 0x62#8],
                     parser := { s.parser with idx := 0#16 } }

/-- R94, R149, R146: a header that declares more than MAX_PAYLOAD is dropped: PBUF is not written, nothing is notified, no snapshot
changes, and the next byte is matched against header 1. That FEED run by itself needs no transport is the model's choice (log 29). -/
def Obligations.OversizeFrameIsDroppedUnread : Prop :=
  ∀ (s : State) (cls id : Byte) (len : U16) (rest : List Byte), s.parser.state = .waitHeader1 →
    s.cfg.maxPayload < len.toNat →
    s.rx = 0xB5#8 :: 0x62#8 :: cls :: id :: loByte len :: hiByte len :: rest →
    exec (.feed 6) s =
      .next { s with rx := rest, events := s.events ++ [.oversize len],
                     parser := { s.parser with state := .waitHeader1, cls := cls, id := id, len := len, idx := 0#16 } }

/-! ### Received frames

A received frame's row means FEED of its bytes (log 7) and needs no transport (log 29), both the model's choice. -/

/-- R137, R138, R142: what ACK-ACK, ACK-NACK and any other frame do when they come in. Notify follows in each case (R135). That the
acknowledged class and id are not compared is the spec's own decision D34. That a received frame's row is FEED of its bytes (log 7) and
needs no transport (log 29) is the model's choice. -/
def Obligations.AckNackAndOtherFramesComeIn : Prop :=
  ∀ (s : State) (p : List Byte) (ckA ckB : Byte),
    (takesFrame s 0x05#8 0x01#8 p ckA ckB → ∃ m, holdsPayload s.parser.pbuf m p ∧
      exec (.rxAckAck p ckA ckB) s =
        .next (released (notify { withFrame s 0x05#8 0x01#8 p ckA ckB m with pending := .none }))) ∧
    (takesFrame s 0x05#8 0x00#8 p ckA ckB → ∃ m, holdsPayload s.parser.pbuf m p ∧
      exec (.rxAckNack p ckA ckB) s =
        .next (released (notify { withFrame s 0x05#8 0x00#8 p ckA ckB m with pending := .none }))) ∧
    ∀ cls id, frameKind cls id = .other → takesFrame s cls id p ckA ckB → ∃ m, holdsPayload s.parser.pbuf m p ∧
      exec (.rxUbxOther cls id p ckA ckB) s = .next (released (notify (withFrame s cls id p ckA ckB m)))

/-- R139: MON-VER sets all six strings from the payload and clears pending. When a slot counts as present is the spec's own decision
D10, where a string ends in a short payload D9; the bytes of N/A are presumed (log 21; GK2, D38). That a received frame's row is FEED
of its bytes (log 7) and needs no transport (log 29) is the model's choice. -/
def Obligations.MonVerSetsTheVersionStrings : Prop :=
  ∀ (s : State) (p : List Byte) (ckA ckB : Byte), takesFrame s 0x0A#8 0x04#8 p ckA ckB →
    ∃ m, holdsPayload s.parser.pbuf m p ∧
      exec (.rxMonVer p ckA ckB) s =
        .next (released (notify
          { withFrame s 0x0A#8 0x04#8 p ckA ckB m with
            pending := .none
            ver := versionOf p }))

/-- R140, R143: NAV-STATUS sets its seven fields, with one clock sample; with fewer than 6 payload bytes it sets none and takes no
sample (the spec's own decision D8). That a received frame's row is FEED of its bytes (log 7) and needs no transport (log 29) is the
model's choice. -/
def Obligations.NavStatusSetsTheStatusSnapshot : Prop :=
  ∀ (s : State) (p : List Byte) (ckA ckB : Byte), takesFrame s 0x01#8 0x03#8 p ckA ckB →
    ∃ m, holdsPayload s.parser.pbuf m p ∧
      (6 ≤ p.length → exec (.rxNavStatus p ckA ckB) s =
        .next (released (notify
          { sampled (withFrame s 0x01#8 0x03#8 p ckA ckB m) with
            st := statusOf p ((sampled s).clk % 2 ^ s.cfg.clockW) }))) ∧
      (p.length < 6 → exec (.rxNavStatus p ckA ckB) s =
        .next (released (notify (withFrame s 0x01#8 0x03#8 p ckA ckB m))))

/-- R141, R143: NAV-TIMEUTC sets its thirteen fields, with one clock sample; with fewer than 20 payload bytes it sets none and takes no
sample (the spec's own decision D8). TU_NANO is held as its 32 bits (log 16); R107: its value is `signed32` of them, which is v when
bit 31 of v is 0 and v - 2^32 when it is 1, and always an i32. That a received frame's row is FEED of its bytes (log 7) and needs no
transport (log 29) is the model's choice. -/
def Obligations.NavTimeutcSetsTheTimeSnapshot : Prop :=
  (∀ v : BitVec 32,
    (v.getLsbD 31 = false → signed32 v = (v.toNat : Int)) ∧ (v.getLsbD 31 = true → signed32 v = (v.toNat : Int) - 4294967296) ∧
      -2147483648 ≤ signed32 v ∧ signed32 v ≤ 2147483647) ∧
  ∀ (s : State) (p : List Byte) (ckA ckB : Byte), takesFrame s 0x01#8 0x21#8 p ckA ckB →
    ∃ m, holdsPayload s.parser.pbuf m p ∧
      (20 ≤ p.length → exec (.rxNavTimeutc p ckA ckB) s =
        .next (released (notify
          { sampled (withFrame s 0x01#8 0x21#8 p ckA ckB m) with
            tu := timeUtcOf p ((sampled s).clk % 2 ^ s.cfg.clockW) }))) ∧
      (p.length < 20 → exec (.rxNavTimeutc p ckA ckB) s =
        .next (released (notify (withFrame s 0x01#8 0x21#8 p ckA ckB m))))

/-- R84, R150, R146: under Strict a frame whose checksum bytes are wrong gets no handler and no notification, whatever its class and
id. That it is not notified is the spec's own decision D17. That a received frame's row is FEED of its bytes (log 7) and needs no
transport (log 29) is the model's choice. -/
def Obligations.StrictPolicyDropsACorruptedFrame : Prop :=
  ∀ (s : State) (cls id : Byte) (p : List Byte) (ckA ckB : Byte), s.parser.state = .waitHeader1 →
    Memory.wf s.parser.pbuf = true → p.length ≤ s.cfg.maxPayload → s.policy = .strict →
    (ckA, ckB) ≠ checksum cls id (BitVec.ofNat 16 p.length) p →
    ∃ m, holdsPayload s.parser.pbuf m p ∧
      exec (rxInstr cls id p ckA ckB) s =
        .next (released { withFrame s cls id p ckA ckB m with events := s.events ++ [.checksumMismatch cls id] })

/-- R87: a received frame's row is the consumption of exactly its bytes, next on RX, in every parser state (log 7, the model's
choice); the bytes behind it stay. No transport is needed (log 29). -/
def Obligations.ReceivedRowsFeedTheirBytes : Prop :=
  ∀ (s : State) (cls id : Byte) (p : List Byte) (ckA ckB : Byte), p.length ≤ 65535 → s.parserInBounds = true →
    ∃ t, exec (rxInstr cls id p ckA ckB) s = .next t ∧ t.rx = s.rx ∧
      exec (.feed (p.length + 8)) { s with rx := wireFrame cls id p ckA ckB ++ s.rx } = .next t

/-! ### DISPATCH and Notify -/

/-- R135 to R142: DISPATCH runs the handler that the class and id select, on the P_LEN bytes `p` that PBUF holds, then Notify; it
changes no parser register. The minimum lengths are the spec's own decision D8, when a slot is present D10; the bytes of N/A are
presumed (log 21). That, run by itself, it takes the parser registers as
they stand, in any P_STATE, is the model's choice (log 27), and so is that it needs no transport (log 29). -/
def Obligations.DispatchRunsOneHandlerThenNotify : Prop :=
  ∀ (s : State) (p : List Byte), s.parser.len.toNat ≤ s.cfg.maxPayload → p.length = s.parser.len.toNat →
    (∀ k, k < p.length → Memory.read s.parser.pbuf k = byteAt p k) →
    (s.parser.cls = 0x05#8 → s.parser.id = 0x01#8 ∨ s.parser.id = 0x00#8 →
      exec .dispatch s = .next (notify { s with pending := .none })) ∧
    (s.parser.cls = 0x0A#8 → s.parser.id = 0x04#8 →
      exec .dispatch s = .next (notify { s with pending := .none, ver := versionOf p })) ∧
    (s.parser.cls = 0x01#8 → s.parser.id = 0x03#8 →
      (6 ≤ p.length → exec .dispatch s =
        .next (notify { sampled s with st := statusOf p ((sampled s).clk % 2 ^ s.cfg.clockW) })) ∧
      (p.length < 6 → exec .dispatch s = .next (notify s))) ∧
    (s.parser.cls = 0x01#8 → s.parser.id = 0x21#8 →
      (20 ≤ p.length → exec .dispatch s =
        .next (notify { sampled s with tu := timeUtcOf p ((sampled s).clk % 2 ^ s.cfg.clockW) })) ∧
      (p.length < 20 → exec .dispatch s = .next (notify s))) ∧
    (frameKind s.parser.cls s.parser.id = .other → exec .dispatch s = .next (notify s)) ∧
    ∀ t, exec .dispatch s = .next t → t.parser = s.parser

/-- R144, R145, R113: without an observer a dispatch notifies nobody; with one it delivers exactly one notification, the frame in the
parser registers, to the observer attached at its start. Whatever commands the observer then issues, E_IN_NOTIFY is 0 afterwards
and they have changed no parser register, no snapshot, and neither E_STATE, E_PENDING, E_BOUND nor a wait. That DISPATCH, run by itself,
takes the parser registers as they stand, in any P_STATE, is the model's choice (log 27), and so is that it needs no transport (log
29). The observer's commands are those of the next entry of its script (log 23), each run in turn while E_IN_NOTIFY is 1 and the
notification has been delivered; with no entry left it issues none. -/
def Obligations.NotifyDeliversOneNotification : Prop :=
  ∀ s : State, s.parser.len.toNat ≤ s.cfg.maxPayload → frameKind s.parser.cls s.parser.id = .other →
    (s.obs = none → exec .dispatch s = .next s) ∧
    ∀ o, s.obs = some o → ∃ t, exec .dispatch s = .next t ∧
      t.notes = s.notes ++ [⟨o, s.parser.cls, s.parser.id, s.parser.len, s.payload⟩] ∧ t.inNotify = false ∧
      t.obsScript = s.obsScript.tail ∧ t.parser = s.parser ∧ t.ver = s.ver ∧ t.tu = s.tu ∧ t.st = s.st ∧
      t.eState = s.eState ∧ t.pending = s.pending ∧ t.bound = s.bound ∧ t.waitT0 = s.waitT0 ∧ t.wait = s.wait ∧
      t.rx = s.rx ∧ t.clk = s.clk ∧
      (∀ commands later, s.obsScript = commands :: later →
        t = { commands.foldl observerCommand
                { s with
                  inNotify := true
                  notes := s.notes ++ [⟨o, s.parser.cls, s.parser.id, s.parser.len, s.payload⟩]
                  obsScript := later } with inNotify := false }) ∧
      (s.obsScript = [] →
        t = { s with
              inNotify := false
              notes := s.notes ++ [⟨o, s.parser.cls, s.parser.id, s.parser.len, s.payload⟩] })

/-- R113 (the spec's own decision D19): a command the observer may issue runs inside the notification exactly as it runs at the HOST
port. -/
def Obligations.ObserverCommandsRunAsHostCommands : Prop :=
  ∀ (s : State) (i : Instr), i.space = .host → i.WellFormed → s.inNotify = true →
    exec i s = .next (observerCommand s (encode i))

/-! ### Session -/

/-- R119: PROCESS is one FEED of everything RX has ready, and then OK; it starts no wait. -/
def Obligations.ProcessFeedsWhatIsReady : Prop :=
  ∀ s : State, hostMayPump s →
    ∃ t, exec (.feed s.rxArrive.rx.length) s.rxArrive = .next t ∧ t.rx = [] ∧ t.wait = s.wait ∧
      exec .process s = .next (returned .host .ok .none t)

/-- R118, 92_eei_decisions.md D12: INITIALIZE on an initialized engine sends nothing and returns OK. -/
def Obligations.InitializeIsANoOpOnceInitialized : Prop :=
  ∀ s : State, s.inNotify = false → s.bound = true → s.eState = .initialized →
    exec .initEngine s = .next (returned .host .ok .none s)

/-- R118, R151: INITIALIZE that nothing answers in time sends the MON-VER poll, returns TIMEOUT and leaves InitializationFailed. -/
def Obligations.UnansweredInitializeFails : Prop :=
  ∀ (s : State) (d : Nat) (rest : List Stim), hostMayPump s → s.eState ≠ .initialized → silentFor s d rest →
    exec .initEngine s =
      .next (returned .host .timeout .none
        { s with
          eState := .initializationFailed
          pending := .none
          wait := none
          waitT0 := s.clk % 2 ^ s.cfg.clockW
          clk := s.clk + d
          pumps := rest
          tx := s.tx ++ verPoll
          events := s.events ++ [.timeout .initVersion] })

/-- R118, R131, R134, R173: INITIALIZE whose wait for MON-VER is ended by a frame that clears pending returns OK with E_STATE =
Initialized, having sent the MON-VER poll and then the six NMEA frames (TX is then exactly these, when no observer adds requests
of its own), whether the six NMEA waits are all answered or all time out (that their results do not count is the spec's own decision
D15). No snapshot but the version strings can have changed. -/
def Obligations.AnsweredInitializeSucceeds : Prop :=
  ∀ (s : State) (r0 : Stim) (rest : List Stim), hostMayPump s → s.eState ≠ .initialized →
    s.parser.state = .waitHeader1 → Memory.wf s.parser.pbuf = true → s.rx = [] → isReply s.cfg.maxPayload r0 →
    (∀ r1 r2 r3 r4 r5 r6 : Stim, s.pumps = r0 :: r1 :: r2 :: r3 :: r4 :: r5 :: r6 :: rest →
      (∀ r ∈ [r1, r2, r3, r4, r5, r6], isReply s.cfg.maxPayload r) →
      ∃ t, exec .initEngine s = .next t ∧ initialized s t rest []) ∧
    ∀ d1 d2 d3 d4 d5 d6 : Nat, s.ticks = [] →
      s.pumps = r0 :: ⟨[], d1⟩ :: ⟨[], d2⟩ :: ⟨[], d3⟩ :: ⟨[], d4⟩ :: ⟨[], d5⟩ :: ⟨[], d6⟩ :: rest →
      (∀ d ∈ [d1, d2, d3, d4, d5, d6], 5000 ≤ d ∧ d < 2 ^ s.cfg.clockW) →
      ∃ t, exec .initEngine s = .next t ∧
        initialized s t rest [.timeout (.initNmea .gga), .timeout (.initNmea .gll), .timeout (.initNmea .gsa),
          .timeout (.initNmea .gsv), .timeout (.initNmea .rmc), .timeout (.initNmea .vtg)]

/-- R120, R121, R129, R151: a rate request that nothing answers in time sends its CFG-MSG frame and returns TIMEOUT. That
SET_MESSAGE_RATE, run by itself, records its result for the engine and needs no transport is the model's choice (log 18, log 29). -/
def Obligations.UnansweredRateRequestTimesOut : Prop :=
  ∀ (s : State) (d : Nat) (rest : List Stim), s.parserInBounds = true → silentFor s d rest →
    (s.inNotify = false → s.bound = true → ∀ r,
      exec (.subscribeStatus r) s =
        .next (returned .host .timeout .none (timedOut s d rest .subscribeStatus [0x01#8, 0x03#8, r])) ∧
      exec (.subscribeTimeutc r) s =
        .next (returned .host .timeout .none (timedOut s d rest .subscribeTimeutc [0x01#8, 0x21#8, r]))) ∧
    ∀ c i r, exec (.setMessageRate c i r) s =
      .next (returned .engine .timeout .none (timedOut s d rest .setMessageRate [c, i, r]))

/-- R120, R121, R129, R132, R173, R174: a rate request whose first pump brings a correct ACK, NACK or MON-VER sends its CFG-MSG
frame and returns OK, whatever time has passed by then; so does a WAIT_PENDING that sends nothing. That SET_MESSAGE_RATE and
WAIT_PENDING, run by themselves, record their result for the engine and need no transport is the model's choice (log 18, log 29). -/
def Obligations.AnyClearingFrameAnswersARateRequest : Prop :=
  ∀ (s : State) (reply : Stim) (rest : List Stim), s.parser.state = .waitHeader1 → Memory.wf s.parser.pbuf = true →
    s.rx = [] → s.pumps = reply :: rest → isReply s.cfg.maxPayload reply →
    (s.inNotify = false → s.bound = true → ∀ r,
      (∃ t, exec (.subscribeStatus r) s = .next t ∧
        answered s t rest .host (encodeFrame 0x06#8 0x01#8 [0x01#8, 0x03#8, r])) ∧
      ∃ t, exec (.subscribeTimeutc r) s = .next t ∧
        answered s t rest .host (encodeFrame 0x06#8 0x01#8 [0x01#8, 0x21#8, r])) ∧
    (∀ c i r, ∃ t, exec (.setMessageRate c i r) s = .next t ∧
      answered s t rest .engine (encodeFrame 0x06#8 0x01#8 [c, i, r])) ∧
    ∃ t, exec .waitPending s = .next t ∧ answered s t rest .engine []

/-- R131: DISABLE_DEFAULT_NMEA that nothing answers sends all six frames, GGA to VTG, each wait timing out before the next begins.
That, run by itself, it needs no transport is the model's choice (log 29). -/
def Obligations.UnansweredNmeaPhaseSendsAllSixFrames : Prop :=
  ∀ (s : State) (d0 d1 d2 d3 d4 d5 : Nat) (rest : List Stim), s.parserInBounds = true → s.rx = [] → s.ticks = [] →
    s.pumps = ⟨[], d0⟩ :: ⟨[], d1⟩ :: ⟨[], d2⟩ :: ⟨[], d3⟩ :: ⟨[], d4⟩ :: ⟨[], d5⟩ :: rest →
    (∀ d ∈ [d0, d1, d2, d3, d4, d5], 5000 ≤ d ∧ d < 2 ^ s.cfg.clockW) →
    exec .disableDefaultNmea s =
      .next
        { s with
          pending := .none
          wait := none
          waitT0 := (s.clk + d0 + d1 + d2 + d3 + d4) % 2 ^ s.cfg.clockW
          clk := s.clk + d0 + d1 + d2 + d3 + d4 + d5
          pumps := rest
          tx := s.tx ++ nmeaFrames
          events := s.events ++ [.timeout (.disableNmea .gga), .timeout (.disableNmea .gll), .timeout (.disableNmea .gsa),
            .timeout (.disableNmea .gsv), .timeout (.disableNmea .rmc), .timeout (.disableNmea .vtg)] }

/-- R132: WAIT_PENDING returns OK at its first pending check when nothing is pending, and TIMEOUT when something is and nothing
answers in time. That, run by itself, it records its result for the engine and needs no transport is the model's choice (log 18, log
29). -/
def Obligations.WaitPendingReturnsOkOrTimeout : Prop :=
  ∀ (s : State) (d : Nat) (rest : List Stim), s.parserInBounds = true → silentFor s d rest →
    (s.pending = .none →
      exec .waitPending s =
        .next (returned .engine .ok .none
          { s with wait := none, waitT0 := s.clk % 2 ^ s.cfg.clockW, clk := s.clk + d, pumps := rest })) ∧
    (s.pending ≠ .none →
      exec .waitPending s =
        .next (returned .engine .timeout .none
          { s with
            pending := .none
            wait := none
            waitT0 := s.clk % 2 ^ s.cfg.clockW
            clk := s.clk + d
            pumps := rest
            events := s.events ++ [.timeout .waitPending] }))

/-- R132, 92_eei_decisions.md D3: no wait expires before 5000 ms have passed in all. As long as nothing arrives and less than 5000 ms
have passed, the request is still pending, nothing has been returned, and the engine is still in the wait (that a step ends there is
log 1, the model's choice): for every operation that starts a wait, and for every wait that a step goes on with. An internal operation
run by itself needs no transport (log 29). -/
def Obligations.WaitGoesOnUntilTheDeadline : Prop :=
  ∀ (s : State) (ms : Nat), s.parserInBounds = true → quiet s ms →
    (ms < 5000 →
      (s.inNotify = false → s.bound = true → ∀ r,
        exec (.subscribeStatus r) s =
          .next (stillWaiting s ms .subscribeStatus .awaitingAck (encodeFrame 0x06#8 0x01#8 [0x01#8, 0x03#8, r])) ∧
        exec (.subscribeTimeutc r) s =
          .next (stillWaiting s ms .subscribeTimeutc .awaitingAck (encodeFrame 0x06#8 0x01#8 [0x01#8, 0x21#8, r]))) ∧
      (s.inNotify = false → s.bound = true → s.eState ≠ .initialized →
        exec .initEngine s =
          .next (stillWaiting { s with eState := .awaitingVersionResponse } ms .initVersion .awaitingVersion verPoll)) ∧
      (∀ c i r, exec (.setMessageRate c i r) s =
        .next (stillWaiting s ms .setMessageRate .awaitingAck (encodeFrame 0x06#8 0x01#8 [c, i, r]))) ∧
      exec .disableDefaultNmea s =
        .next (stillWaiting s ms (.disableNmea .gga) .awaitingAck
          (encodeFrame 0x06#8 0x01#8 [0xF0#8, 0x00#8, 0x00#8])) ∧
      (s.pending ≠ .none → exec .waitPending s = .next (stillWaiting s ms .waitPending s.pending []))) ∧
    ∀ w, s.wait = some w → s.pending ≠ .none → s.waitT0 < 2 ^ s.cfg.clockW → waited s + ms < 5000 →
      step s = .next { s with clk := s.clk + ms, pumps := [] }

/-- R178 (log 1): with a clock that stands still and nothing arriving, a wait in progress goes on and on: the step changes nothing. A
wait that an internal operation run by itself began needs no transport (log 29). -/
def Obligations.StalledClockKeepsWaiting : Prop :=
  ∀ (s : State) (w : Waiter), s.wait = some w → s.parserInBounds = true → s.pending ≠ .none → s.rx = [] →
    s.pumps = [] → s.ticks = [] → waited s < 5000 → s.waitT0 < 2 ^ s.cfg.clockW → step s = .next s

/-- R178, R180: a rate request ends once the clock has been seen to pass the deadline, whatever bytes arrive in the meantime: when
the time that passes before one of the coming pumps adds up to 5000 ms or more, and to less than one turn of the clock. -/
def Obligations.RateRequestEndsOnceTheDeadlinePasses : Prop :=
  ∀ (s : State) (r : Byte) (k : Nat), hostMayPump s → s.ticks = [] → k ≤ s.pumps.length →
    5000 ≤ ((s.pumps.take k).map Stim.clk).sum → ((s.pumps.take k).map Stim.clk).sum < 2 ^ s.cfg.clockW →
    (∃ t, exec (.subscribeStatus r) s = .next t ∧ t.wait = none ∧ t.pending = .none) ∧
    ∃ t, exec (.subscribeTimeutc r) s = .next t ∧ t.wait = none ∧ t.pending = .none

/-! ### The whole machine -/

/-- The machine after reset meets the invariant, whatever its parameters. -/
def Obligations.ResetMeetsTheInvariant : Prop := ∀ cfg : Config, Inv (State.resetWith cfg)

/-- Every step keeps the invariant: PBUF's form, R20's bound, R133's pending rule, the place of INITIALIZE, the clock samples' width,
the stored strings. -/
def Obligations.EveryStepKeepsTheInvariant : Prop := ∀ s t : State, Inv s → step s = .next t → Inv t

/-- R13: every operation the host can cause is total: from a state that meets the invariant, with no operation in the latch, every
step goes on, whatever command stands at the HOST port and whatever the ports supply. -/
def Obligations.HostDrivenStepsNeverStop : Prop := ∀ s : State, Inv s → s.opLatch = none → SafeStep s

/-- R27: no rule clears E_BOUND. -/
def Obligations.BoundNeverClears : Prop := ∀ s t : State, step s = .next t → s.bound = true → t.bound = true

/-- R25, R134: once Initialized the engine stays so, and it never returns to Uninitialized. -/
def Obligations.InitializedForGood : Prop :=
  ∀ s t : State, Inv s → step s = .next t →
    (s.eState = .initialized → t.eState = .initialized) ∧ (t.eState = .uninitialized → s.eState = .uninitialized)

/-- R25: only INITIALIZE writes E_STATE, at once or in a step that goes on with a wait of its own (log 1). -/
def Obligations.OnlyInitializeWritesEState : Prop :=
  (∀ (i : Instr) (s t : State), i ≠ .initEngine → exec i s = .next t → t.eState = s.eState) ∧
  ∀ (s t : State) (w : Waiter), s.wait = some w → w.inInit = false → step s = .next t → t.eState = s.eState

/-- R112, R33 to R35: the host commands that run no pump change no snapshot and consume nothing: the ports' inputs still to come stay
as they are. No byte of PBUF changes, and of the parser registers only BIND changes any, namely P_STATE and P_IDX. -/
def Obligations.PlainCommandsLeaveParserAndSnapshots : Prop :=
  ∀ (i : Instr) (s t : State), i.space = .host → i ≠ .initEngine → i ≠ .process → (∀ r, i ≠ .subscribeStatus r) →
    (∀ r, i ≠ .subscribeTimeutc r) → exec i s = .next t →
    t.cfg = s.cfg ∧ t.ver = s.ver ∧ t.tu = s.tu ∧ t.st = s.st ∧ t.pending = s.pending ∧ t.eState = s.eState ∧
      t.waitT0 = s.waitT0 ∧ t.wait = s.wait ∧ t.rx = s.rx ∧ t.pumps = s.pumps ∧ t.clk = s.clk ∧ t.ticks = s.ticks ∧
      t.obsScript = s.obsScript ∧ t.hostQ = s.hostQ ∧ t.opLatch = s.opLatch ∧ t.notes = s.notes ∧ t.inNotify = s.inNotify ∧
      (∀ k, Memory.read t.parser.pbuf k = Memory.read s.parser.pbuf k) ∧
      ({ t.parser with state := s.parser.state, idx := s.parser.idx } : Parser) = s.parser ∧
      (i ≠ .bind → t.parser = s.parser)

/-- R42, R54, R182: what has been written to TX, notified, returned or recorded stays; a step only appends. The parameters and the
clock's past are never undone either. -/
def Obligations.OutputsOnlyGrow : Prop :=
  ∀ s t : State, step s = .next t →
    s.tx <+: t.tx ∧ s.notes <+: t.notes ∧ s.responses <+: t.responses ∧ s.events <+: t.events ∧ t.cfg = s.cfg ∧
      s.clk ≤ t.clk

/-- R147: the event history is recorded and never read. Two states that differ only in it stay so. -/
def Obligations.EventHistoryIsNeverRead : Prop :=
  ∀ (s t : State) (e : List Event), step s = .next t →
    ∃ f, step { s with events := e } = .next { t with events := f }

/-! ### Waits in progress -/

/-- R132, R118, R120, R121, R129, R131, 92_eei_decisions.md D4, D5: a blocking operation sends its request, takes one Now() as
E_WAIT_T0, and waits. Each iteration of any wait, wherever it began, is FEED of what is ready; with nothing pending then the wait ends
with OK; otherwise one Now() is taken, and the wait ends with TIMEOUT when 5000 ms or more have elapsed at it, or goes on. What comes
after the wait is `afterWait`. Time may pass before every one of these samples. How far one step goes (log 1) and that internal
operations run by themselves return to the engine and need no transport (log 18, log 29) is the model's choice. -/
def Obligations.EveryWaitFollowsTheLoopOfWaitPending : Prop :=
  (∀ s : State, s.parserInBounds = true →
    (s.inNotify = false → s.bound = true → ∀ r,
      exec (.subscribeStatus r) s = step (requested .subscribeStatus 0x01#8 0x03#8 r s) ∧
      exec (.subscribeTimeutc r) s = step (requested .subscribeTimeutc 0x01#8 0x21#8 r s)) ∧
    (s.inNotify = false → s.bound = true → s.eState ≠ .initialized →
      exec .initEngine s =
        step { sampled s with
                eState := .awaitingVersionResponse
                pending := .awaitingVersion
                tx := s.tx ++ verPoll
                waitT0 := (sampled s).clk % 2 ^ s.cfg.clockW
                wait := some .initVersion }) ∧
    (∀ c i r, exec (.setMessageRate c i r) s = step (requested .setMessageRate c i r s)) ∧
    exec .disableDefaultNmea s = step (requested (.disableNmea .gga) 0xF0#8 0x00#8 0x00#8 s) ∧
    exec .waitPending s =
      step { sampled s with waitT0 := (sampled s).clk % 2 ^ s.cfg.clockW, wait := some .waitPending }) ∧
  ∀ (s : State) (w : Waiter), s.wait = some w → s.parserInBounds = true → s.waitT0 < 2 ^ s.cfg.clockW →
    (∀ st rest, s.pumps = st :: rest →
      ∃ u, exec (.feed (s.rx ++ st.rx).length) { s with pumps := rest, rx := s.rx ++ st.rx, clk := s.clk + st.clk } = .next u ∧
        (u.pending = .none → step s = onward (afterWait w .ok { u with wait := none })) ∧
        (u.pending ≠ .none → 5000 ≤ waited (sampled u) → step s = onward (afterWait w .timeout (expired w (sampled u)))) ∧
        (u.pending ≠ .none → waited (sampled u) < 5000 → step s = onward (sampled u))) ∧
    (s.pumps = [] →
      ∃ u, exec (.feed s.rx.length) s = .next u ∧
        (u.pending = .none → step s = .next (afterWait w .ok { u with wait := none })) ∧
        (u.pending ≠ .none → 5000 ≤ waited (sampled u) → step s = .next (afterWait w .timeout (expired w (sampled u)))) ∧
        (u.pending ≠ .none → waited (sampled u) < 5000 → step s = .next (sampled u)))

/-- R132, R151, R173, R174, 92_eei_decisions.md D3, D4, D34: a wait in progress, of any operation, in which nothing arrives for less
than what is left of 5000 ms. Then the next pump either brings one correct ACK, NACK or MON-VER, and the wait ends with OK, however
late; or brings nothing and the deadline has passed, and the wait ends with TIMEOUT. What comes after the wait is `afterWait`; how far
one step goes is the model's choice (log 1). A wait that an internal operation run by itself began needs no transport (log 29). -/
def Obligations.AReplyOrTheDeadlineEndsAWaitInProgress : Prop :=
  ∀ (s : State) (w : Waiter) (before : List Stim) (st : Stim) (rest : List Stim), s.wait = some w → s.pending ≠ .none →
    s.waitT0 < 2 ^ s.cfg.clockW → s.rx = [] → s.ticks = [] → s.pumps = before ++ st :: rest → (∀ x ∈ before, x.rx = []) →
    waited s + (before.map Stim.clk).sum < 5000 →
    (s.parser.state = .waitHeader1 → Memory.wf s.parser.pbuf = true → isReply s.cfg.maxPayload st →
      ∃ u, u.pending = .none ∧ u.wait = none ∧ u.rx = [] ∧ u.pumps = rest ∧ u.ticks = [] ∧ u.cfg = s.cfg ∧
        u.clk = s.clk + (before.map Stim.clk).sum + st.clk ∧ u.waitT0 = s.waitT0 ∧ u.eState = s.eState ∧ u.bound = s.bound ∧
        u.parser.state = .waitHeader1 ∧
        (s.obs = none → u.obs = none ∧ u.tx = s.tx ∧ u.notes = s.notes ∧ u.st = s.st ∧ u.tu = s.tu ∧ u.policy = s.policy ∧
          u.responses = s.responses ∧ u.events = s.events) ∧
        step s = onward (afterWait w .ok u)) ∧
    (s.parserInBounds = true → st.rx = [] → 5000 ≤ waited s + (before.map Stim.clk).sum + st.clk →
      waited s + (before.map Stim.clk).sum + st.clk < 2 ^ s.cfg.clockW →
      step s =
        onward (afterWait w .timeout
          (expired w { s with pumps := rest, clk := s.clk + (before.map Stim.clk).sum + st.clk })))
end

