-- ==== Sys2Proof/Laws/State.lean ====
section
/-! SUPPORT. What each named update of the state does to each field: one lemma per field per update, true by rfl. -/

namespace Sys2Proof.Machine

namespace State

/-! #### answerTo -/

@[simp] theorem answerTo_cfg (who : Issuer) (c : ResultCode) (d : ReadData) (s : State) : (s.answerTo who c d).cfg = s.cfg := rfl
@[simp] theorem answerTo_parser (who : Issuer) (c : ResultCode) (d : ReadData) (s : State) : (s.answerTo who c d).parser = s.parser := rfl
@[simp] theorem answerTo_eState (who : Issuer) (c : ResultCode) (d : ReadData) (s : State) : (s.answerTo who c d).eState = s.eState := rfl
@[simp] theorem answerTo_pending (who : Issuer) (c : ResultCode) (d : ReadData) (s : State) : (s.answerTo who c d).pending = s.pending := rfl
@[simp] theorem answerTo_bound (who : Issuer) (c : ResultCode) (d : ReadData) (s : State) : (s.answerTo who c d).bound = s.bound := rfl
@[simp] theorem answerTo_obs (who : Issuer) (c : ResultCode) (d : ReadData) (s : State) : (s.answerTo who c d).obs = s.obs := rfl
@[simp] theorem answerTo_policy (who : Issuer) (c : ResultCode) (d : ReadData) (s : State) : (s.answerTo who c d).policy = s.policy := rfl
@[simp] theorem answerTo_inNotify (who : Issuer) (c : ResultCode) (d : ReadData) (s : State) : (s.answerTo who c d).inNotify = s.inNotify := rfl
@[simp] theorem answerTo_waitT0 (who : Issuer) (c : ResultCode) (d : ReadData) (s : State) : (s.answerTo who c d).waitT0 = s.waitT0 := rfl
@[simp] theorem answerTo_wait (who : Issuer) (c : ResultCode) (d : ReadData) (s : State) : (s.answerTo who c d).wait = s.wait := rfl
@[simp] theorem answerTo_ver (who : Issuer) (c : ResultCode) (d : ReadData) (s : State) : (s.answerTo who c d).ver = s.ver := rfl
@[simp] theorem answerTo_tu (who : Issuer) (c : ResultCode) (d : ReadData) (s : State) : (s.answerTo who c d).tu = s.tu := rfl
@[simp] theorem answerTo_st (who : Issuer) (c : ResultCode) (d : ReadData) (s : State) : (s.answerTo who c d).st = s.st := rfl
@[simp] theorem answerTo_rx (who : Issuer) (c : ResultCode) (d : ReadData) (s : State) : (s.answerTo who c d).rx = s.rx := rfl
@[simp] theorem answerTo_pumps (who : Issuer) (c : ResultCode) (d : ReadData) (s : State) : (s.answerTo who c d).pumps = s.pumps := rfl
@[simp] theorem answerTo_clk (who : Issuer) (c : ResultCode) (d : ReadData) (s : State) : (s.answerTo who c d).clk = s.clk := rfl
@[simp] theorem answerTo_ticks (who : Issuer) (c : ResultCode) (d : ReadData) (s : State) : (s.answerTo who c d).ticks = s.ticks := rfl
@[simp] theorem answerTo_obsScript (who : Issuer) (c : ResultCode) (d : ReadData) (s : State) : (s.answerTo who c d).obsScript = s.obsScript := rfl
@[simp] theorem answerTo_hostQ (who : Issuer) (c : ResultCode) (d : ReadData) (s : State) : (s.answerTo who c d).hostQ = s.hostQ := rfl
@[simp] theorem answerTo_opLatch (who : Issuer) (c : ResultCode) (d : ReadData) (s : State) : (s.answerTo who c d).opLatch = s.opLatch := rfl
@[simp] theorem answerTo_tx (who : Issuer) (c : ResultCode) (d : ReadData) (s : State) : (s.answerTo who c d).tx = s.tx := rfl
@[simp] theorem answerTo_notes (who : Issuer) (c : ResultCode) (d : ReadData) (s : State) : (s.answerTo who c d).notes = s.notes := rfl
@[simp] theorem answerTo_responses (who : Issuer) (c : ResultCode) (d : ReadData) (s : State) : (s.answerTo who c d).responses = s.responses ++ [⟨who, c, d⟩] := rfl
@[simp] theorem answerTo_events (who : Issuer) (c : ResultCode) (d : ReadData) (s : State) : (s.answerTo who c d).events = s.events := rfl

/-! #### answer -/

@[simp] theorem answer_cfg (c : ResultCode) (d : ReadData) (s : State) : (s.answer c d).cfg = s.cfg := rfl
@[simp] theorem answer_parser (c : ResultCode) (d : ReadData) (s : State) : (s.answer c d).parser = s.parser := rfl
@[simp] theorem answer_eState (c : ResultCode) (d : ReadData) (s : State) : (s.answer c d).eState = s.eState := rfl
@[simp] theorem answer_pending (c : ResultCode) (d : ReadData) (s : State) : (s.answer c d).pending = s.pending := rfl
@[simp] theorem answer_bound (c : ResultCode) (d : ReadData) (s : State) : (s.answer c d).bound = s.bound := rfl
@[simp] theorem answer_obs (c : ResultCode) (d : ReadData) (s : State) : (s.answer c d).obs = s.obs := rfl
@[simp] theorem answer_policy (c : ResultCode) (d : ReadData) (s : State) : (s.answer c d).policy = s.policy := rfl
@[simp] theorem answer_inNotify (c : ResultCode) (d : ReadData) (s : State) : (s.answer c d).inNotify = s.inNotify := rfl
@[simp] theorem answer_waitT0 (c : ResultCode) (d : ReadData) (s : State) : (s.answer c d).waitT0 = s.waitT0 := rfl
@[simp] theorem answer_wait (c : ResultCode) (d : ReadData) (s : State) : (s.answer c d).wait = s.wait := rfl
@[simp] theorem answer_ver (c : ResultCode) (d : ReadData) (s : State) : (s.answer c d).ver = s.ver := rfl
@[simp] theorem answer_tu (c : ResultCode) (d : ReadData) (s : State) : (s.answer c d).tu = s.tu := rfl
@[simp] theorem answer_st (c : ResultCode) (d : ReadData) (s : State) : (s.answer c d).st = s.st := rfl
@[simp] theorem answer_rx (c : ResultCode) (d : ReadData) (s : State) : (s.answer c d).rx = s.rx := rfl
@[simp] theorem answer_pumps (c : ResultCode) (d : ReadData) (s : State) : (s.answer c d).pumps = s.pumps := rfl
@[simp] theorem answer_clk (c : ResultCode) (d : ReadData) (s : State) : (s.answer c d).clk = s.clk := rfl
@[simp] theorem answer_ticks (c : ResultCode) (d : ReadData) (s : State) : (s.answer c d).ticks = s.ticks := rfl
@[simp] theorem answer_obsScript (c : ResultCode) (d : ReadData) (s : State) : (s.answer c d).obsScript = s.obsScript := rfl
@[simp] theorem answer_hostQ (c : ResultCode) (d : ReadData) (s : State) : (s.answer c d).hostQ = s.hostQ := rfl
@[simp] theorem answer_opLatch (c : ResultCode) (d : ReadData) (s : State) : (s.answer c d).opLatch = s.opLatch := rfl
@[simp] theorem answer_tx (c : ResultCode) (d : ReadData) (s : State) : (s.answer c d).tx = s.tx := rfl
@[simp] theorem answer_notes (c : ResultCode) (d : ReadData) (s : State) : (s.answer c d).notes = s.notes := rfl
@[simp] theorem answer_responses (c : ResultCode) (d : ReadData) (s : State) : (s.answer c d).responses = s.responses ++ [⟨s.issuer, c, d⟩] := rfl
@[simp] theorem answer_events (c : ResultCode) (d : ReadData) (s : State) : (s.answer c d).events = s.events := rfl

/-! #### raise -/

@[simp] theorem raise_cfg (e : Event) (s : State) : (s.raise e).cfg = s.cfg := rfl
@[simp] theorem raise_parser (e : Event) (s : State) : (s.raise e).parser = s.parser := rfl
@[simp] theorem raise_eState (e : Event) (s : State) : (s.raise e).eState = s.eState := rfl
@[simp] theorem raise_pending (e : Event) (s : State) : (s.raise e).pending = s.pending := rfl
@[simp] theorem raise_bound (e : Event) (s : State) : (s.raise e).bound = s.bound := rfl
@[simp] theorem raise_obs (e : Event) (s : State) : (s.raise e).obs = s.obs := rfl
@[simp] theorem raise_policy (e : Event) (s : State) : (s.raise e).policy = s.policy := rfl
@[simp] theorem raise_inNotify (e : Event) (s : State) : (s.raise e).inNotify = s.inNotify := rfl
@[simp] theorem raise_waitT0 (e : Event) (s : State) : (s.raise e).waitT0 = s.waitT0 := rfl
@[simp] theorem raise_wait (e : Event) (s : State) : (s.raise e).wait = s.wait := rfl
@[simp] theorem raise_ver (e : Event) (s : State) : (s.raise e).ver = s.ver := rfl
@[simp] theorem raise_tu (e : Event) (s : State) : (s.raise e).tu = s.tu := rfl
@[simp] theorem raise_st (e : Event) (s : State) : (s.raise e).st = s.st := rfl
@[simp] theorem raise_rx (e : Event) (s : State) : (s.raise e).rx = s.rx := rfl
@[simp] theorem raise_pumps (e : Event) (s : State) : (s.raise e).pumps = s.pumps := rfl
@[simp] theorem raise_clk (e : Event) (s : State) : (s.raise e).clk = s.clk := rfl
@[simp] theorem raise_ticks (e : Event) (s : State) : (s.raise e).ticks = s.ticks := rfl
@[simp] theorem raise_obsScript (e : Event) (s : State) : (s.raise e).obsScript = s.obsScript := rfl
@[simp] theorem raise_hostQ (e : Event) (s : State) : (s.raise e).hostQ = s.hostQ := rfl
@[simp] theorem raise_opLatch (e : Event) (s : State) : (s.raise e).opLatch = s.opLatch := rfl
@[simp] theorem raise_tx (e : Event) (s : State) : (s.raise e).tx = s.tx := rfl
@[simp] theorem raise_notes (e : Event) (s : State) : (s.raise e).notes = s.notes := rfl
@[simp] theorem raise_responses (e : Event) (s : State) : (s.raise e).responses = s.responses := rfl
@[simp] theorem raise_events (e : Event) (s : State) : (s.raise e).events = s.events ++ [e] := rfl

/-! #### txWrite -/

@[simp] theorem txWrite_cfg (s : State) (b : Byte) : (s.txWrite b).cfg = s.cfg := rfl
@[simp] theorem txWrite_parser (s : State) (b : Byte) : (s.txWrite b).parser = s.parser := rfl
@[simp] theorem txWrite_eState (s : State) (b : Byte) : (s.txWrite b).eState = s.eState := rfl
@[simp] theorem txWrite_pending (s : State) (b : Byte) : (s.txWrite b).pending = s.pending := rfl
@[simp] theorem txWrite_bound (s : State) (b : Byte) : (s.txWrite b).bound = s.bound := rfl
@[simp] theorem txWrite_obs (s : State) (b : Byte) : (s.txWrite b).obs = s.obs := rfl
@[simp] theorem txWrite_policy (s : State) (b : Byte) : (s.txWrite b).policy = s.policy := rfl
@[simp] theorem txWrite_inNotify (s : State) (b : Byte) : (s.txWrite b).inNotify = s.inNotify := rfl
@[simp] theorem txWrite_waitT0 (s : State) (b : Byte) : (s.txWrite b).waitT0 = s.waitT0 := rfl
@[simp] theorem txWrite_wait (s : State) (b : Byte) : (s.txWrite b).wait = s.wait := rfl
@[simp] theorem txWrite_ver (s : State) (b : Byte) : (s.txWrite b).ver = s.ver := rfl
@[simp] theorem txWrite_tu (s : State) (b : Byte) : (s.txWrite b).tu = s.tu := rfl
@[simp] theorem txWrite_st (s : State) (b : Byte) : (s.txWrite b).st = s.st := rfl
@[simp] theorem txWrite_rx (s : State) (b : Byte) : (s.txWrite b).rx = s.rx := rfl
@[simp] theorem txWrite_pumps (s : State) (b : Byte) : (s.txWrite b).pumps = s.pumps := rfl
@[simp] theorem txWrite_clk (s : State) (b : Byte) : (s.txWrite b).clk = s.clk := rfl
@[simp] theorem txWrite_ticks (s : State) (b : Byte) : (s.txWrite b).ticks = s.ticks := rfl
@[simp] theorem txWrite_obsScript (s : State) (b : Byte) : (s.txWrite b).obsScript = s.obsScript := rfl
@[simp] theorem txWrite_hostQ (s : State) (b : Byte) : (s.txWrite b).hostQ = s.hostQ := rfl
@[simp] theorem txWrite_opLatch (s : State) (b : Byte) : (s.txWrite b).opLatch = s.opLatch := rfl
@[simp] theorem txWrite_tx (s : State) (b : Byte) : (s.txWrite b).tx = s.tx ++ [b] := rfl
@[simp] theorem txWrite_notes (s : State) (b : Byte) : (s.txWrite b).notes = s.notes := rfl
@[simp] theorem txWrite_responses (s : State) (b : Byte) : (s.txWrite b).responses = s.responses := rfl
@[simp] theorem txWrite_events (s : State) (b : Byte) : (s.txWrite b).events = s.events := rfl

/-! #### setParser -/

@[simp] theorem setParser_cfg (s : State) (p : Parser) : (s.setParser p).cfg = s.cfg := rfl
@[simp] theorem setParser_parser (s : State) (p : Parser) : (s.setParser p).parser = p := rfl
@[simp] theorem setParser_eState (s : State) (p : Parser) : (s.setParser p).eState = s.eState := rfl
@[simp] theorem setParser_pending (s : State) (p : Parser) : (s.setParser p).pending = s.pending := rfl
@[simp] theorem setParser_bound (s : State) (p : Parser) : (s.setParser p).bound = s.bound := rfl
@[simp] theorem setParser_obs (s : State) (p : Parser) : (s.setParser p).obs = s.obs := rfl
@[simp] theorem setParser_policy (s : State) (p : Parser) : (s.setParser p).policy = s.policy := rfl
@[simp] theorem setParser_inNotify (s : State) (p : Parser) : (s.setParser p).inNotify = s.inNotify := rfl
@[simp] theorem setParser_waitT0 (s : State) (p : Parser) : (s.setParser p).waitT0 = s.waitT0 := rfl
@[simp] theorem setParser_wait (s : State) (p : Parser) : (s.setParser p).wait = s.wait := rfl
@[simp] theorem setParser_ver (s : State) (p : Parser) : (s.setParser p).ver = s.ver := rfl
@[simp] theorem setParser_tu (s : State) (p : Parser) : (s.setParser p).tu = s.tu := rfl
@[simp] theorem setParser_st (s : State) (p : Parser) : (s.setParser p).st = s.st := rfl
@[simp] theorem setParser_rx (s : State) (p : Parser) : (s.setParser p).rx = s.rx := rfl
@[simp] theorem setParser_pumps (s : State) (p : Parser) : (s.setParser p).pumps = s.pumps := rfl
@[simp] theorem setParser_clk (s : State) (p : Parser) : (s.setParser p).clk = s.clk := rfl
@[simp] theorem setParser_ticks (s : State) (p : Parser) : (s.setParser p).ticks = s.ticks := rfl
@[simp] theorem setParser_obsScript (s : State) (p : Parser) : (s.setParser p).obsScript = s.obsScript := rfl
@[simp] theorem setParser_hostQ (s : State) (p : Parser) : (s.setParser p).hostQ = s.hostQ := rfl
@[simp] theorem setParser_opLatch (s : State) (p : Parser) : (s.setParser p).opLatch = s.opLatch := rfl
@[simp] theorem setParser_tx (s : State) (p : Parser) : (s.setParser p).tx = s.tx := rfl
@[simp] theorem setParser_notes (s : State) (p : Parser) : (s.setParser p).notes = s.notes := rfl
@[simp] theorem setParser_responses (s : State) (p : Parser) : (s.setParser p).responses = s.responses := rfl
@[simp] theorem setParser_events (s : State) (p : Parser) : (s.setParser p).events = s.events := rfl

/-! #### memWrite -/

@[simp] theorem memWrite_cfg (off : Nat) (b : Byte) (s : State) : (s.memWrite off b).cfg = s.cfg := rfl
@[simp] theorem memWrite_parser (off : Nat) (b : Byte) (s : State) : (s.memWrite off b).parser = { s.parser with pbuf := Memory.write s.parser.pbuf off b } := rfl
@[simp] theorem memWrite_eState (off : Nat) (b : Byte) (s : State) : (s.memWrite off b).eState = s.eState := rfl
@[simp] theorem memWrite_pending (off : Nat) (b : Byte) (s : State) : (s.memWrite off b).pending = s.pending := rfl
@[simp] theorem memWrite_bound (off : Nat) (b : Byte) (s : State) : (s.memWrite off b).bound = s.bound := rfl
@[simp] theorem memWrite_obs (off : Nat) (b : Byte) (s : State) : (s.memWrite off b).obs = s.obs := rfl
@[simp] theorem memWrite_policy (off : Nat) (b : Byte) (s : State) : (s.memWrite off b).policy = s.policy := rfl
@[simp] theorem memWrite_inNotify (off : Nat) (b : Byte) (s : State) : (s.memWrite off b).inNotify = s.inNotify := rfl
@[simp] theorem memWrite_waitT0 (off : Nat) (b : Byte) (s : State) : (s.memWrite off b).waitT0 = s.waitT0 := rfl
@[simp] theorem memWrite_wait (off : Nat) (b : Byte) (s : State) : (s.memWrite off b).wait = s.wait := rfl
@[simp] theorem memWrite_ver (off : Nat) (b : Byte) (s : State) : (s.memWrite off b).ver = s.ver := rfl
@[simp] theorem memWrite_tu (off : Nat) (b : Byte) (s : State) : (s.memWrite off b).tu = s.tu := rfl
@[simp] theorem memWrite_st (off : Nat) (b : Byte) (s : State) : (s.memWrite off b).st = s.st := rfl
@[simp] theorem memWrite_rx (off : Nat) (b : Byte) (s : State) : (s.memWrite off b).rx = s.rx := rfl
@[simp] theorem memWrite_pumps (off : Nat) (b : Byte) (s : State) : (s.memWrite off b).pumps = s.pumps := rfl
@[simp] theorem memWrite_clk (off : Nat) (b : Byte) (s : State) : (s.memWrite off b).clk = s.clk := rfl
@[simp] theorem memWrite_ticks (off : Nat) (b : Byte) (s : State) : (s.memWrite off b).ticks = s.ticks := rfl
@[simp] theorem memWrite_obsScript (off : Nat) (b : Byte) (s : State) : (s.memWrite off b).obsScript = s.obsScript := rfl
@[simp] theorem memWrite_hostQ (off : Nat) (b : Byte) (s : State) : (s.memWrite off b).hostQ = s.hostQ := rfl
@[simp] theorem memWrite_opLatch (off : Nat) (b : Byte) (s : State) : (s.memWrite off b).opLatch = s.opLatch := rfl
@[simp] theorem memWrite_tx (off : Nat) (b : Byte) (s : State) : (s.memWrite off b).tx = s.tx := rfl
@[simp] theorem memWrite_notes (off : Nat) (b : Byte) (s : State) : (s.memWrite off b).notes = s.notes := rfl
@[simp] theorem memWrite_responses (off : Nat) (b : Byte) (s : State) : (s.memWrite off b).responses = s.responses := rfl
@[simp] theorem memWrite_events (off : Nat) (b : Byte) (s : State) : (s.memWrite off b).events = s.events := rfl

/-! #### stimulate -/

@[simp] theorem stimulate_cfg (i : Stim) (s : State) : (s.stimulate i).cfg = s.cfg := rfl
@[simp] theorem stimulate_parser (i : Stim) (s : State) : (s.stimulate i).parser = s.parser := rfl
@[simp] theorem stimulate_eState (i : Stim) (s : State) : (s.stimulate i).eState = s.eState := rfl
@[simp] theorem stimulate_pending (i : Stim) (s : State) : (s.stimulate i).pending = s.pending := rfl
@[simp] theorem stimulate_bound (i : Stim) (s : State) : (s.stimulate i).bound = s.bound := rfl
@[simp] theorem stimulate_obs (i : Stim) (s : State) : (s.stimulate i).obs = s.obs := rfl
@[simp] theorem stimulate_policy (i : Stim) (s : State) : (s.stimulate i).policy = s.policy := rfl
@[simp] theorem stimulate_inNotify (i : Stim) (s : State) : (s.stimulate i).inNotify = s.inNotify := rfl
@[simp] theorem stimulate_waitT0 (i : Stim) (s : State) : (s.stimulate i).waitT0 = s.waitT0 := rfl
@[simp] theorem stimulate_wait (i : Stim) (s : State) : (s.stimulate i).wait = s.wait := rfl
@[simp] theorem stimulate_ver (i : Stim) (s : State) : (s.stimulate i).ver = s.ver := rfl
@[simp] theorem stimulate_tu (i : Stim) (s : State) : (s.stimulate i).tu = s.tu := rfl
@[simp] theorem stimulate_st (i : Stim) (s : State) : (s.stimulate i).st = s.st := rfl
@[simp] theorem stimulate_rx (i : Stim) (s : State) : (s.stimulate i).rx = s.rx ++ i.rx := rfl
@[simp] theorem stimulate_pumps (i : Stim) (s : State) : (s.stimulate i).pumps = s.pumps := rfl
@[simp] theorem stimulate_clk (i : Stim) (s : State) : (s.stimulate i).clk = s.clk + i.clk := rfl
@[simp] theorem stimulate_ticks (i : Stim) (s : State) : (s.stimulate i).ticks = s.ticks := rfl
@[simp] theorem stimulate_obsScript (i : Stim) (s : State) : (s.stimulate i).obsScript = s.obsScript := rfl
@[simp] theorem stimulate_hostQ (i : Stim) (s : State) : (s.stimulate i).hostQ = s.hostQ := rfl
@[simp] theorem stimulate_opLatch (i : Stim) (s : State) : (s.stimulate i).opLatch = s.opLatch := rfl
@[simp] theorem stimulate_tx (i : Stim) (s : State) : (s.stimulate i).tx = s.tx := rfl
@[simp] theorem stimulate_notes (i : Stim) (s : State) : (s.stimulate i).notes = s.notes := rfl
@[simp] theorem stimulate_responses (i : Stim) (s : State) : (s.stimulate i).responses = s.responses := rfl
@[simp] theorem stimulate_events (i : Stim) (s : State) : (s.stimulate i).events = s.events := rfl

/-! #### rxArrive -/

@[simp] theorem rxArrive_cfg (s : State) : s.rxArrive.cfg = s.cfg := rfl
@[simp] theorem rxArrive_parser (s : State) : s.rxArrive.parser = s.parser := rfl
@[simp] theorem rxArrive_eState (s : State) : s.rxArrive.eState = s.eState := rfl
@[simp] theorem rxArrive_pending (s : State) : s.rxArrive.pending = s.pending := rfl
@[simp] theorem rxArrive_bound (s : State) : s.rxArrive.bound = s.bound := rfl
@[simp] theorem rxArrive_obs (s : State) : s.rxArrive.obs = s.obs := rfl
@[simp] theorem rxArrive_policy (s : State) : s.rxArrive.policy = s.policy := rfl
@[simp] theorem rxArrive_inNotify (s : State) : s.rxArrive.inNotify = s.inNotify := rfl
@[simp] theorem rxArrive_waitT0 (s : State) : s.rxArrive.waitT0 = s.waitT0 := rfl
@[simp] theorem rxArrive_wait (s : State) : s.rxArrive.wait = s.wait := rfl
@[simp] theorem rxArrive_ver (s : State) : s.rxArrive.ver = s.ver := rfl
@[simp] theorem rxArrive_tu (s : State) : s.rxArrive.tu = s.tu := rfl
@[simp] theorem rxArrive_st (s : State) : s.rxArrive.st = s.st := rfl
@[simp] theorem rxArrive_rx (s : State) : s.rxArrive.rx = s.rx ++ (s.pumps.headD Stim.silent).rx := rfl
@[simp] theorem rxArrive_pumps (s : State) : s.rxArrive.pumps = s.pumps.tail := rfl
@[simp] theorem rxArrive_clk (s : State) : s.rxArrive.clk = s.clk + (s.pumps.headD Stim.silent).clk := rfl
@[simp] theorem rxArrive_ticks (s : State) : s.rxArrive.ticks = s.ticks := rfl
@[simp] theorem rxArrive_obsScript (s : State) : s.rxArrive.obsScript = s.obsScript := rfl
@[simp] theorem rxArrive_hostQ (s : State) : s.rxArrive.hostQ = s.hostQ := rfl
@[simp] theorem rxArrive_opLatch (s : State) : s.rxArrive.opLatch = s.opLatch := rfl
@[simp] theorem rxArrive_tx (s : State) : s.rxArrive.tx = s.tx := rfl
@[simp] theorem rxArrive_notes (s : State) : s.rxArrive.notes = s.notes := rfl
@[simp] theorem rxArrive_responses (s : State) : s.rxArrive.responses = s.responses := rfl
@[simp] theorem rxArrive_events (s : State) : s.rxArrive.events = s.events := rfl

/-! #### tick -/

@[simp] theorem tick_cfg (s : State) : s.tick.cfg = s.cfg := rfl
@[simp] theorem tick_parser (s : State) : s.tick.parser = s.parser := rfl
@[simp] theorem tick_eState (s : State) : s.tick.eState = s.eState := rfl
@[simp] theorem tick_pending (s : State) : s.tick.pending = s.pending := rfl
@[simp] theorem tick_bound (s : State) : s.tick.bound = s.bound := rfl
@[simp] theorem tick_obs (s : State) : s.tick.obs = s.obs := rfl
@[simp] theorem tick_policy (s : State) : s.tick.policy = s.policy := rfl
@[simp] theorem tick_inNotify (s : State) : s.tick.inNotify = s.inNotify := rfl
@[simp] theorem tick_waitT0 (s : State) : s.tick.waitT0 = s.waitT0 := rfl
@[simp] theorem tick_wait (s : State) : s.tick.wait = s.wait := rfl
@[simp] theorem tick_ver (s : State) : s.tick.ver = s.ver := rfl
@[simp] theorem tick_tu (s : State) : s.tick.tu = s.tu := rfl
@[simp] theorem tick_st (s : State) : s.tick.st = s.st := rfl
@[simp] theorem tick_rx (s : State) : s.tick.rx = s.rx := rfl
@[simp] theorem tick_pumps (s : State) : s.tick.pumps = s.pumps := rfl
@[simp] theorem tick_clk (s : State) : s.tick.clk = s.clk + s.ticks.headD 0 := rfl
@[simp] theorem tick_ticks (s : State) : s.tick.ticks = s.ticks.tail := rfl
@[simp] theorem tick_obsScript (s : State) : s.tick.obsScript = s.obsScript := rfl
@[simp] theorem tick_hostQ (s : State) : s.tick.hostQ = s.hostQ := rfl
@[simp] theorem tick_opLatch (s : State) : s.tick.opLatch = s.opLatch := rfl
@[simp] theorem tick_tx (s : State) : s.tick.tx = s.tx := rfl
@[simp] theorem tick_notes (s : State) : s.tick.notes = s.notes := rfl
@[simp] theorem tick_responses (s : State) : s.tick.responses = s.responses := rfl
@[simp] theorem tick_events (s : State) : s.tick.events = s.events := rfl

/-! #### reset -/

@[simp] theorem resetWith_cfg (c : Config) : (resetWith c).cfg = c := rfl
@[simp] theorem resetWith_parser (c : Config) : (resetWith c).parser = .reset := rfl
@[simp] theorem resetWith_eState (c : Config) : (resetWith c).eState = .uninitialized := rfl
@[simp] theorem resetWith_pending (c : Config) : (resetWith c).pending = .none := rfl
@[simp] theorem resetWith_bound (c : Config) : (resetWith c).bound = false := rfl
@[simp] theorem resetWith_obs (c : Config) : (resetWith c).obs = none := rfl
@[simp] theorem resetWith_policy (c : Config) : (resetWith c).policy = .permissive := rfl
@[simp] theorem resetWith_inNotify (c : Config) : (resetWith c).inNotify = false := rfl
@[simp] theorem resetWith_waitT0 (c : Config) : (resetWith c).waitT0 = 0 := rfl
@[simp] theorem resetWith_wait (c : Config) : (resetWith c).wait = none := rfl
@[simp] theorem resetWith_ver (c : Config) : (resetWith c).ver = .reset := rfl
@[simp] theorem resetWith_tu (c : Config) : (resetWith c).tu = .reset := rfl
@[simp] theorem resetWith_st (c : Config) : (resetWith c).st = .reset := rfl
@[simp] theorem resetWith_rx (c : Config) : (resetWith c).rx = [] := rfl
@[simp] theorem resetWith_pumps (c : Config) : (resetWith c).pumps = [] := rfl
@[simp] theorem resetWith_clk (c : Config) : (resetWith c).clk = 0 := rfl
@[simp] theorem resetWith_ticks (c : Config) : (resetWith c).ticks = [] := rfl
@[simp] theorem resetWith_obsScript (c : Config) : (resetWith c).obsScript = [] := rfl
@[simp] theorem resetWith_hostQ (c : Config) : (resetWith c).hostQ = [] := rfl
@[simp] theorem resetWith_opLatch (c : Config) : (resetWith c).opLatch = none := rfl
@[simp] theorem resetWith_tx (c : Config) : (resetWith c).tx = [] := rfl
@[simp] theorem resetWith_notes (c : Config) : (resetWith c).notes = [] := rfl
@[simp] theorem resetWith_responses (c : Config) : (resetWith c).responses = [] := rfl
@[simp] theorem resetWith_events (c : Config) : (resetWith c).events = [] := rfl

end State

end Sys2Proof.Machine
end

