-- ==== Sys2Proof/Laws/Memory.lean ====
section
/-! SUPPORT. The laws of the payload buffer: read after write, the canonical form and its uniqueness, and what the little-endian
reads are (spec/20_memory.md R43, R47, R48). -/

namespace Sys2Proof.Machine

namespace Memory

theorem read_of_lt {m : List Host.Cell} {x : Nat} (h : ∀ c ∈ m, x < c.1) : read m x = unlisted := by
  induction m with
  | nil => rfl
  | cons c rest ih =>
    obtain ⟨a, b⟩ := c
    have ha : x < a := h (a, b) (by simp)
    have hrest : ∀ c ∈ rest, x < c.1 := fun c hc => h c (by simp [hc])
    simp [read, ih hrest, Nat.ne_of_gt ha]

/-- The canonical form, one cell at a time. -/
theorem wf_cons {a : Nat} {b : Byte} {rest : List Host.Cell} :
    wf ((a, b) :: rest) = true ↔ b ≠ unlisted ∧ (∀ c ∈ rest, a < c.1) ∧ wf rest = true := by
  simp [wf, and_assoc]

/-- Every cell of a written memory is a cell from before or the one written. -/
theorem mem_write {m : List Host.Cell} {x : Nat} {v : Byte} {c : Host.Cell} (h : c ∈ write m x v) :
    c ∈ m ∨ c = (x, v) := by
  induction m with
  | nil =>
    simp only [write] at h
    split at h
    · simp at h
    · simpa using h
  | cons d rest ih =>
    obtain ⟨a, b⟩ := d
    simp only [write] at h
    split at h
    · split at h
      · exact .inl h
      · simp only [List.mem_cons] at h ⊢; tauto
    · split at h
      · split at h
        · exact .inl (List.mem_cons_of_mem _ h)
        · simp only [List.mem_cons] at h ⊢; tauto
      · simp only [List.mem_cons] at h ⊢
        rcases h with h | h
        · exact .inl (.inl h)
        · rcases ih h with h | h
          · exact .inl (.inr h)
          · exact .inr h

/-- A write keeps the canonical form. -/
theorem wf_write {m : List Host.Cell} (h : wf m = true) (x : Nat) (v : Byte) : wf (write m x v) = true := by
  induction m with
  | nil =>
    simp only [write]
    split
    · rfl
    · simp_all [wf]
  | cons c rest ih =>
    obtain ⟨a, b⟩ := c
    obtain ⟨hb, hlt, hrest⟩ := wf_cons.mp h
    simp only [write]
    split
    · split
      · exact h
      · rename_i hx hv
        refine wf_cons.mpr ⟨hv, ?_, h⟩
        intro c hc
        rcases List.mem_cons.mp hc with rfl | hc
        · exact hx
        · exact Nat.lt_trans hx (hlt c hc)
    · split
      · split
        · exact hrest
        · rename_i hxa hv
          exact wf_cons.mpr ⟨hv, by rw [hxa]; exact hlt, hrest⟩
      · rename_i hx hxa
        refine wf_cons.mpr ⟨hb, ?_, ih hrest⟩
        intro c hc
        rcases mem_write hc with hc | rfl
        · exact hlt c hc
        · show a < x; omega

/-- Reading what was written. -/
theorem read_write_same {m : List Host.Cell} (h : wf m = true) (x : Nat) (v : Byte) : read (write m x v) x = v := by
  induction m with
  | nil =>
    simp only [write]
    split
    · rename_i hv; rw [hv]; rfl
    · simp [read]
  | cons c rest ih =>
    obtain ⟨a, b⟩ := c
    obtain ⟨-, hlt, hrest⟩ := wf_cons.mp h
    simp only [write]
    split
    · rename_i hx
      split
      · rename_i hv
        rw [hv]
        refine read_of_lt fun c hc => ?_
        rcases List.mem_cons.mp hc with rfl | hc
        · exact hx
        · exact Nat.lt_trans hx (hlt c hc)
      · simp [read]
    · split
      · rename_i hxa
        split
        · rename_i hv
          rw [hv, hxa]
          exact read_of_lt hlt
        · simp [read]
      · rename_i hxa
        have hax : a ≠ x := fun h => hxa h.symm
        simp [read, hax, ih hrest]

/-- Reading anywhere else. -/
theorem read_write_other {m : List Host.Cell} (h : wf m = true) {x y : Nat} (hne : y ≠ x) (v : Byte) :
    read (write m x v) y = read m y := by
  induction m with
  | nil =>
    simp only [write]
    split
    · rfl
    · simp [read, hne.symm]
  | cons c rest ih =>
    obtain ⟨a, b⟩ := c
    obtain ⟨-, hlt, hrest⟩ := wf_cons.mp h
    simp only [write]
    split
    · split
      · rfl
      · simp [read, hne.symm]
    · split
      · rename_i hxa
        have hay : a ≠ y := by omega
        split
        · simp [read, hay]
        · simp [read, hay, hne.symm]
      · simp [read, ih hrest]

/-- Two canonical memories that read the same are the same. -/
theorem ext_of_read {m n : List Host.Cell} (hm : wf m = true) (hn : wf n = true) (h : ∀ x, read m x = read n x) :
    m = n := by
  induction m generalizing n with
  | nil =>
    cases n with
    | nil => rfl
    | cons c rest =>
      obtain ⟨a, b⟩ := c
      have := h a
      simp [read] at this
      exact absurd this.symm (wf_cons.mp hn).1
  | cons c rest ih =>
    obtain ⟨a, b⟩ := c
    obtain ⟨hb, hlt, hrest⟩ := wf_cons.mp hm
    cases n with
    | nil =>
      have := h a
      simp [read] at this
      exact absurd this hb
    | cons c' rest' =>
      obtain ⟨a', b'⟩ := c'
      obtain ⟨hb', hlt', hrest'⟩ := wf_cons.mp hn
      have haa : a = a' := by
        rcases Nat.lt_trichotomy a a' with hl | he | hl
        · have e := h a
          rw [read_of_lt (m := (a', b') :: rest')] at e
          · simp [read] at e; exact absurd e hb
          · intro c hc
            rcases List.mem_cons.mp hc with rfl | hc
            · exact hl
            · exact Nat.lt_trans hl (hlt' c hc)
        · exact he
        · have e := h a'
          rw [read_of_lt (m := (a, b) :: rest)] at e
          · simp [read] at e; exact absurd e.symm hb'
          · intro c hc
            rcases List.mem_cons.mp hc with rfl | hc
            · exact hl
            · exact Nat.lt_trans hl (hlt c hc)
      subst haa
      have hbb : b = b' := by simpa [read] using h a
      subst hbb
      have : rest = rest' := by
        refine ih hrest hrest' fun x => ?_
        have e := h x
        by_cases hx : a = x
        · subst hx
          rw [read_of_lt hlt, read_of_lt hlt']
        · simpa [read, hx] using e
      rw [this]

theorem readBytes_length (m : List Host.Cell) (off n : Nat) : (readBytes m off n).length = n := by
  induction n generalizing off with
  | zero => rfl
  | succ n ih => simp [readBytes, ih]

theorem readBytes_getElem (m : List Host.Cell) (off n k : Nat) (h : k < (readBytes m off n).length) :
    (readBytes m off n)[k] = read m (off + k) := by
  induction n generalizing off k with
  | zero => simp [readBytes] at h
  | succ n ih =>
    cases k with
    | zero => rfl
    | succ k =>
      simp only [readBytes, List.getElem_cons_succ]
      rw [ih]
      congr 1
      omega

/-- Reading a stretch of bytes that are known one by one. -/
theorem readBytes_eq {m : List Host.Cell} {off : Nat} {p : List Byte}
    (h : ∀ k (hk : k < p.length), read m (off + k) = p[k]) : readBytes m off p.length = p := by
  apply List.ext_getElem
  · exact readBytes_length ..
  · intro k h1 h2
    rw [readBytes_getElem, h k h2]

end Memory

/-- `MemRead(off, n)` fits in `8n` bits (spec/20_memory.md R47). -/
theorem memRead_lt (m : List Host.Cell) (off n : Nat) : memRead m off n < 256 ^ n := by
  induction n generalizing off with
  | zero => simp [memRead]
  | succ n ih =>
    have h1 := ih (off + 1)
    have h2 := (Memory.read m off).isLt
    rw [memRead, pow_succ]
    omega

end Sys2Proof.Machine
end

