-- ==== Sys2Proof/Laws/Codec.lean ====
section
/-! SUPPORT. The laws of the wire frame and of sending one (spec/30_encoding.md R60, spec/42_codec.md R102, R103). -/

namespace Sys2Proof.Machine

@[simp] theorem wordOfBytes_hi_lo (v : U16) : wordOfBytes (hiByte v) (loByte v) = v := by
  apply BitVec.eq_of_getLsbD_eq
  intro i hi
  unfold wordOfBytes hiByte loByte
  rw [BitVec.getLsbD_append]
  by_cases h : i < 8
  · simp [h]
  · have : 8 + (i - 8) = i := by omega
    simp [h, this]
    omega

@[simp] theorem loByte_zeroExtend (b : Byte) : loByte (b.zeroExtend 16) = b := by
  apply BitVec.eq_of_getLsbD_eq
  intro i hi
  unfold loByte
  simp [hi]
  omega

theorem wireFrame_length (cls id : Byte) (payload : List Byte) (ckA ckB : Byte) :
    (wireFrame cls id payload ckA ckB).length = payload.length + 8 := by
  simp [wireFrame]

theorem encodeFrame_length (cls id : Byte) (payload : List Byte) :
    (encodeFrame cls id payload).length = payload.length + 8 := wireFrame_length ..

/-- Splitting a frame gives its pieces back. -/
theorem splitFrame_wireFrame {payload : List Byte} (h : payload.length ≤ 65535) (cls id ckA ckB : Byte) :
    splitFrame (wireFrame cls id payload ckA ckB) = some (cls, id, payload, ckA, ckB) := by
  have hl : (BitVec.ofNat 16 payload.length).toNat = payload.length := by
    rw [BitVec.toNat_ofNat]; omega
  simp [splitFrame, wireFrame, hl]

@[simp] theorem tokBytes_byteToks (bytes : List Byte) : tokBytes (byteToks bytes) = some bytes := by
  induction bytes with
  | nil => rfl
  | cons b rest ih =>
    have : byteToks (b :: rest) = .byte b :: byteToks rest := rfl
    simp [this, tokBytes, ih]

theorem foldl_txWrite (bytes : List Byte) (s : State) :
    bytes.foldl State.txWrite s = { s with tx := s.tx ++ bytes } := by
  induction bytes generalizing s with
  | nil => simp
  | cons b rest ih => simp [ih, State.txWrite]

/-- Everything SEND_FRAME does: the frame's bytes, contiguous and in order, at the end of TX (spec/20_memory.md R54). -/
theorem sendFrame_eq (c i : Byte) (payload : List Byte) (s : State) :
    sendFrame c i payload s = { s with tx := s.tx ++ encodeFrame c i payload } := foldl_txWrite ..

theorem sendPoll_eq (c i : Byte) (s : State) :
    sendPoll c i s = { s with tx := s.tx ++ encodeFrame c i [] } := sendFrame_eq ..

theorem sendCfgMsg_eq (c i r : Byte) (s : State) :
    sendCfgMsg c i r s = { s with tx := s.tx ++ encodeFrame 0x06#8 0x01#8 [c, i, r] } := sendFrame_eq ..

end Sys2Proof.Machine
end

