-- ==== Sys2Proof/Laws/Acceptance.lean ====
section
/-! SUPPORT. The laws of command acceptance (spec/43_session.md R111): which check fails, and that a command that passes runs. -/

namespace Sys2Proof.Machine

/-- REENTRANT comes first (R111, R153). -/
theorem refusedAtAcceptance_reentrant {op : HostOp} {s : State} (h : s.inNotify = true)
    (hop : refusedInNotify op = true) : refusedAtAcceptance op s = some (reentrant op s) := by
  simp [refusedAtAcceptance, h, hop]

/-- TRANSPORT_UNBOUND (R112, R152), when the command is not one the observer is refused. -/
theorem refusedAtAcceptance_unbound {op : HostOp} {s : State} (h : s.inNotify = true → refusedInNotify op = false)
    (hop : needsTransport op = true) (hb : s.bound = false) :
    refusedAtAcceptance op s = some (transportUnbound op s) := by
  cases hn : s.inNotify <;> simp_all [refusedAtAcceptance]

/-- A command that passes both checks. -/
theorem refusedAtAcceptance_none {op : HostOp} {s : State} (h : s.inNotify = true → refusedInNotify op = false)
    (hb : needsTransport op = true → s.bound = true) : refusedAtAcceptance op s = none := by
  cases hn : s.inNotify <;> cases hb' : s.bound <;> simp_all [refusedAtAcceptance]

/-- Everything acceptance can answer. -/
theorem refusedAtAcceptance_cases (op : HostOp) (s : State) :
    refusedAtAcceptance op s = some (reentrant op s) ∨ refusedAtAcceptance op s = some (transportUnbound op s) ∨
      (refusedAtAcceptance op s = none ∧ (s.inNotify = true → refusedInNotify op = false) ∧
        (needsTransport op = true → s.bound = true)) := by
  unfold refusedAtAcceptance
  cases s.inNotify <;> cases refusedInNotify op <;> cases needsTransport op <;> cases s.bound <;> simp

theorem accept_of_none {op : HostOp} {s : State} (h : refusedAtAcceptance op s = none)
    (run : State → Host.Outcome State Fault Refusal) : accept op run s = run s := by
  simp [accept, h]

theorem accept_of_some {op : HostOp} {s t : State} (h : refusedAtAcceptance op s = some t)
    (run : State → Host.Outcome State Fault Refusal) : accept op run s = .next t := by
  simp [accept, h]

theorem acceptThen_of_none {op : HostOp} {s : State} (h : refusedAtAcceptance op s = none) (run : State → State) :
    acceptThen op run s = run s := by
  simp [acceptThen, h]

theorem acceptThen_of_some {op : HostOp} {s t : State} (h : refusedAtAcceptance op s = some t) (run : State → State) :
    acceptThen op run s = t := by
  simp [acceptThen, h]

/-- What `guardPbuf` answers. -/
theorem guardPbuf_next {b : Bool} {t u : State} : guardPbuf b t = .next u ↔ b = true ∧ t = u := by
  cases b <;> simp [guardPbuf]

@[simp] theorem guardPbuf_true (t : State) : guardPbuf true t = .next t := rfl

end Sys2Proof.Machine
end

