-- ==== Sys2Proof/Laws/Decode.lean ====
section
/-! SUPPORT. The laws of the decoder and the encoder (spec/30_encoding.md R60, R65, R70 to R75): the tables read both ways, and what
the splitter and the operand readers accept. -/

namespace Sys2Proof

open Machine

@[simp] theorem decode_host (toks : List Tok) : decode .host toks = decodeHost toks := rfl
@[simp] theorem decode_internal (toks : List Tok) : decode .internal toks = decodeInternal toks := rfl
@[simp] theorem decode_rx (toks : List Tok) : decode .rx toks = decodeRx toks := rfl
@[simp] theorem decode_tx (toks : List Tok) : decode .tx toks = decodeTx toks := rfl

/-! ### The opcode maps -/

theorem HostOp.ofOpcode_opcode (op : HostOp) : HostOp.ofOpcode op.opcode = some op := by cases op <;> decide

theorem InternalOp.ofCode_code (op : InternalOp) : InternalOp.ofCode op.code = some op := by cases op <;> decide

theorem HostOp.opcode_of_ofOpcode {op : HostOp} {b : Byte} (h : HostOp.ofOpcode b = some op) : op.opcode = b := by
  simpa using List.find?_some h

theorem InternalOp.code_of_ofCode {op : InternalOp} {b : Byte} (h : InternalOp.ofCode b = some op) : op.code = b := by
  simpa using List.find?_some h

/-! ### Operand readers -/

theorem noOperands_ok {code : Byte} {i j : Instr} {toks : List Tok} (h : noOperands code i toks = .ok j) :
    toks = [] ∧ j = i := by
  cases toks with
  | nil => cases h; exact ⟨rfl, rfl⟩
  | cons t rest => cases h

theorem oneByte_ok {code : Byte} {mk : Byte → Except DecodeError Instr} {j : Instr} {toks : List Tok}
    (h : oneByte code mk toks = .ok j) : ∃ a, toks = [.byte a] ∧ mk a = .ok j := by
  unfold oneByte at h
  split at h
  · rename_i a; exact ⟨a, rfl, h⟩
  · cases h

theorem oneObserver_ok {code : Byte} {mk : ObserverId → Instr} {j : Instr} {toks : List Tok}
    (h : oneObserver code mk toks = .ok j) : ∃ o, toks = [.obs o] ∧ j = mk o := by
  unfold oneObserver at h
  split at h
  · rename_i o; cases h; exact ⟨o, rfl, rfl⟩
  · cases h

theorem tokBytes_some {toks : List Tok} {bytes : List Byte} (h : tokBytes toks = some bytes) : toks = byteToks bytes := by
  induction toks generalizing bytes with
  | nil => simp [tokBytes] at h; subst h; rfl
  | cons t rest ih =>
    cases t with
    | byte b =>
      simp only [tokBytes, Option.map_eq_some_iff] at h
      obtain ⟨r, hr, rfl⟩ := h
      rw [ih hr]; rfl
    | obs => simp [tokBytes] at h
    | count => simp [tokBytes] at h

theorem decodePayload_ok {code c i : Byte} {toks : List Tok} {j : Instr} (h : decodePayload code c i toks = .ok j) :
    ∃ bytes, toks = byteToks bytes ∧ bytes.length ≤ 65535 ∧ j = .sendFrame c i bytes := by
  unfold decodePayload at h
  split at h
  · rename_i bytes hb
    split at h
    · rename_i hl; cases h; exact ⟨bytes, tokBytes_some hb, hl, rfl⟩
    · cases h
  · cases h

theorem decodePayload_byteToks (code c i : Byte) {payload : List Byte} (h : payload.length ≤ 65535) :
    decodePayload code c i (byteToks payload) = .ok (.sendFrame c i payload) := by
  simp [decodePayload, h]

/-! ### Frames -/

theorem loByte_wordOfBytes (hi lo : Byte) : loByte (wordOfBytes hi lo) = lo := by
  apply BitVec.eq_of_getLsbD_eq
  intro k hk
  unfold loByte wordOfBytes
  rw [BitVec.getLsbD_extractLsb', BitVec.getLsbD_append]
  simp [hk]

theorem hiByte_wordOfBytes (hi lo : Byte) : hiByte (wordOfBytes hi lo) = hi := by
  apply BitVec.eq_of_getLsbD_eq
  intro k hk
  unfold hiByte wordOfBytes
  rw [BitVec.getLsbD_extractLsb', BitVec.getLsbD_append]
  simp [hk]

/-- Only a frame of R60 splits, and its pieces make it again. -/
theorem splitFrame_some {bytes : List Byte} {c i a b : Byte} {p : List Byte}
    (h : splitFrame bytes = some (c, i, p, a, b)) : p.length ≤ 65535 ∧ bytes = wireFrame c i p a b := by
  unfold splitFrame at h
  split at h
  · rename_i s1 s2 cls id l0 l1 rest
    dsimp only at h
    split at h
    · rename_i x y hd
      split at h
      · rename_i hs
        simp only [Option.some.injEq, Prod.mk.injEq] at h
        obtain ⟨rfl, rfl, hp, rfl, rfl⟩ := h
        have hlen : rest.length - (wordOfBytes l1 l0).toNat = 2 := by simpa using congrArg List.length hd
        have hpl : p.length = (wordOfBytes l1 l0).toNat := by rw [← hp]; simp; omega
        have hlt := (wordOfBytes l1 l0).isLt
        have hof : BitVec.ofNat 16 p.length = wordOfBytes l1 l0 := by rw [hpl]; simp
        have hrest : rest = p ++ [x, y] := by rw [← hp, ← hd]; simp
        refine ⟨by omega, ?_⟩
        simp only [wireFrame, hof, loByte_wordOfBytes, hiByte_wordOfBytes, hs.1, hs.2, hrest]
        simp
      · cases h
    · cases h
  · cases h

theorem split_byteToks {p : List Byte} (h : p.length ≤ 65535) (c i a b : Byte) :
    (tokBytes (byteToks (wireFrame c i p a b))).bind splitFrame = some (c, i, p, a, b) := by
  rw [tokBytes_byteToks]; exact splitFrame_wireFrame h ..

/-- Every frame of R60 decodes on RX (R75). -/
theorem decodeRx_wireFrame {p : List Byte} (h : p.length ≤ 65535) (c i a b : Byte) :
    decodeRx (byteToks (wireFrame c i p a b)) = .ok (rxInstr c i p a b) := by
  unfold decodeRx; rw [split_byteToks h]

/-- A frame with its own checksum decodes on TX as its catalog row says (R70). -/
theorem decodeTx_encodeFrame {p : List Byte} (h : p.length ≤ 65535) (c i : Byte) :
    decodeTx (byteToks (encodeFrame c i p)) = txInstr c i p := by
  unfold decodeTx encodeFrame; rw [split_byteToks h]; simp

theorem decodeRx_ok {toks : List Tok} {j : Instr} (h : decodeRx toks = .ok j) :
    ∃ c i p a b, p.length ≤ 65535 ∧ toks = byteToks (wireFrame c i p a b) ∧ j = rxInstr c i p a b := by
  unfold decodeRx at h
  split at h
  · rename_i c i p a b hb
    obtain ⟨bytes, hbytes, hsp⟩ := Option.bind_eq_some_iff.mp hb
    obtain ⟨hl, rfl⟩ := splitFrame_some hsp
    cases h
    exact ⟨c, i, p, a, b, hl, tokBytes_some hbytes, rfl⟩
  · cases h

theorem decodeTx_ok {toks : List Tok} {j : Instr} (h : decodeTx toks = .ok j) :
    ∃ c i p, p.length ≤ 65535 ∧ toks = byteToks (encodeFrame c i p) ∧ txInstr c i p = .ok j := by
  unfold decodeTx at h
  split at h
  · rename_i c i p a b hb
    obtain ⟨bytes, hbytes, hsp⟩ := Option.bind_eq_some_iff.mp hb
    obtain ⟨hl, rfl⟩ := splitFrame_some hsp
    split at h
    · rename_i hck
      refine ⟨c, i, p, hl, ?_, h⟩
      rw [tokBytes_some hbytes, encodeFrame, ← hck]
    · cases h
  · cases h

/-- The frames UBX-CORE sends, read back (R62, R63). -/
theorem txInstr_ok {c i : Byte} {p : List Byte} {j : Instr} (h : txInstr c i p = .ok j) :
    j.WellFormed ∧ j.space = .tx ∧ encode j = byteToks (encodeFrame c i p) := by
  match p, h with
  | [], h =>
    unfold txInstr at h
    dsimp only at h
    split at h
    · rename_i hci; cases h; rw [hci.1, hci.2]; exact ⟨trivial, rfl, rfl⟩
    · split at h
      · rename_i hci; cases h; rw [hci.1, hci.2]; exact ⟨trivial, rfl, rfl⟩
      · split at h
        · rename_i hci; cases h; rw [hci.1, hci.2]; exact ⟨trivial, rfl, rfl⟩
        · cases h
  | [x, y, z], h =>
    unfold txInstr at h
    dsimp only at h
    split at h
    · rename_i hci; cases h; rw [hci.1, hci.2]; exact ⟨trivial, rfl, rfl⟩
    · cases h
  | [_], h => cases h
  | [_, _], h => cases h
  | _ :: _ :: _ :: _ :: _, h => cases h

/-- HANDLE's table, read both ways (spec/44_dispatch.md R136). -/
theorem frameKind_cases (c i : Byte) :
    (frameKind c i = .ackAck ∧ c = 0x05#8 ∧ i = 0x01#8) ∨ (frameKind c i = .ackNack ∧ c = 0x05#8 ∧ i = 0x00#8) ∨
      (frameKind c i = .monVer ∧ c = 0x0A#8 ∧ i = 0x04#8) ∨ (frameKind c i = .navStatus ∧ c = 0x01#8 ∧ i = 0x03#8) ∨
      (frameKind c i = .navTimeutc ∧ c = 0x01#8 ∧ i = 0x21#8) ∨ frameKind c i = .other := by
  unfold frameKind
  split <;> simp_all
  split <;> simp_all
  split <;> simp_all
  split <;> simp_all
  split <;> simp_all

end Sys2Proof
end

