-- ==== Sys2Proof/Laws/Observer.lean ====
section
/-! SUPPORT. What the observer can do inside a notification, and what Notify does (spec/43_session.md R113, spec/44_dispatch.md
R144, R145): said once, as a frame between the states before and after. -/

namespace Sys2Proof.Machine

/-- What the observer's commands leave unchanged, and what they only append to. -/
structure ObserverFrame (s t : State) : Prop where
  cfg : t.cfg = s.cfg
  parser : t.parser = s.parser
  eState : t.eState = s.eState
  pending : t.pending = s.pending
  bound : t.bound = s.bound
  inNotify : t.inNotify = s.inNotify
  waitT0 : t.waitT0 = s.waitT0
  wait : t.wait = s.wait
  ver : t.ver = s.ver
  tu : t.tu = s.tu
  st : t.st = s.st
  rx : t.rx = s.rx
  pumps : t.pumps = s.pumps
  clk : t.clk = s.clk
  ticks : t.ticks = s.ticks
  obsScript : t.obsScript = s.obsScript
  hostQ : t.hostQ = s.hostQ
  opLatch : t.opLatch = s.opLatch
  notes : t.notes = s.notes
  tx : s.tx <+: t.tx
  responses : s.responses <+: t.responses
  events : s.events <+: t.events

namespace ObserverFrame

theorem refl (s : State) : ObserverFrame s s := by
  constructor <;> rfl

theorem trans {s t u : State} (h : ObserverFrame s t) (k : ObserverFrame t u) : ObserverFrame s u where
  cfg := k.cfg.trans h.cfg
  parser := k.parser.trans h.parser
  eState := k.eState.trans h.eState
  pending := k.pending.trans h.pending
  bound := k.bound.trans h.bound
  inNotify := k.inNotify.trans h.inNotify
  waitT0 := k.waitT0.trans h.waitT0
  wait := k.wait.trans h.wait
  ver := k.ver.trans h.ver
  tu := k.tu.trans h.tu
  st := k.st.trans h.st
  rx := k.rx.trans h.rx
  pumps := k.pumps.trans h.pumps
  clk := k.clk.trans h.clk
  ticks := k.ticks.trans h.ticks
  obsScript := k.obsScript.trans h.obsScript
  hostQ := k.hostQ.trans h.hostQ
  opLatch := k.opLatch.trans h.opLatch
  notes := k.notes.trans h.notes
  tx := h.tx.trans k.tx
  responses := h.responses.trans k.responses
  events := h.events.trans k.events

/-- A result returned and nothing else. -/
theorem answer (c : ResultCode) (d : ReadData) (s : State) : ObserverFrame s (s.answer c d) := by
  constructor <;> first | rfl | exact List.prefix_refl _ | exact List.prefix_append _ _

/-- A command that fails a check: an event and a result (R111). -/
theorem raise_answer (e : Event) (c : ResultCode) (d : ReadData) (s : State) :
    ObserverFrame s ((s.raise e).answer c d) := by
  constructor <;> first | rfl | exact List.prefix_refl _ | exact List.prefix_append _ _

/-- A command through acceptance: its rule's frame, or the frame of a failed check. -/
theorem acceptThen {op : HostOp} {run : State → State} {s : State} (h : ObserverFrame s (run s)) :
    ObserverFrame s (acceptThen op run s) := by
  rcases refusedAtAcceptance_cases op s with hr | hr | ⟨hr, -, -⟩
  · rw [acceptThen_of_some hr]; exact raise_answer ..
  · rw [acceptThen_of_some hr]; exact raise_answer ..
  · rw [acceptThen_of_none hr]; exact h

/-- The observer slot may change (R115, R116). -/
theorem setObs_answer (o : Option ObserverId) (s : State) :
    ObserverFrame s (State.answer .ok .none { s with obs := o }) := by
  constructor <;> first | rfl | exact List.prefix_refl _ | exact List.prefix_append _ _

/-- The policy may change (R117). -/
theorem setPolicy_answer (p : Policy) (s : State) :
    ObserverFrame s (State.answer .ok .none { s with policy := p }) := by
  constructor <;> first | rfl | exact List.prefix_refl _ | exact List.prefix_append _ _

/-- A poll may be sent (R122 to R124). -/
theorem sendPoll_answer (c i : Byte) (s : State) : ObserverFrame s ((sendPoll c i s).answer .ok .none) := by
  rw [sendPoll_eq]
  constructor <;> first | rfl | exact List.prefix_refl _ | exact List.prefix_append _ _

end ObserverFrame

theorem commandAttachObserver_frame (o : ObserverId) (s : State) : ObserverFrame s (commandAttachObserver o s) :=
  .acceptThen (.setObs_answer _ s)

theorem commandDetachObserver_frame (s : State) : ObserverFrame s (commandDetachObserver s) :=
  .acceptThen (.setObs_answer _ s)

theorem commandSetChecksumPolicy_frame (p : Byte) (s : State) : ObserverFrame s (commandSetChecksumPolicy p s) := by
  unfold commandSetChecksumPolicy
  split
  · exact .acceptThen (.setPolicy_answer _ s)
  · exact .raise_answer ..

theorem commandRequest_frame (op : HostOp) (c i : Byte) (s : State) : ObserverFrame s (commandRequest op c i s) :=
  .acceptThen (.sendPoll_answer c i s)

theorem commandReadVersion_frame (s : State) : ObserverFrame s (commandReadVersion s) := .acceptThen (.answer ..)
theorem commandReadTimeutc_frame (s : State) : ObserverFrame s (commandReadTimeutc s) := .acceptThen (.answer ..)
theorem commandReadStatus_frame (s : State) : ObserverFrame s (commandReadStatus s) := .acceptThen (.answer ..)
theorem commandReadInitialized_frame (s : State) : ObserverFrame s (commandReadInitialized s) :=
  .acceptThen (.answer ..)

/-- Any one command of the observer. -/
theorem observerCommand_frame (s : State) (command : List Tok) : ObserverFrame s (observerCommand s command) := by
  unfold observerCommand
  split
  · rename_i i _
    cases i
    case attachObserver => exact commandAttachObserver_frame _ s
    case detachObserver => exact commandDetachObserver_frame s
    case setChecksumPolicy => exact commandSetChecksumPolicy_frame _ s
    case requestVersion => exact commandRequest_frame ..
    case requestStatus => exact commandRequest_frame ..
    case requestTimeutc => exact commandRequest_frame ..
    case readVersion => exact commandReadVersion_frame s
    case readTimeutc => exact commandReadTimeutc_frame s
    case readStatus => exact commandReadStatus_frame s
    case readInitialized => exact commandReadInitialized_frame s
    all_goals exact .raise_answer ..
  · exact .raise_answer ..

/-- Any sequence of commands of the observer. -/
theorem observerCommands_frame (commands : List (List Tok)) (s : State) :
    ObserverFrame s (commands.foldl observerCommand s) := by
  induction commands generalizing s with
  | nil => exact .refl s
  | cons c rest ih => exact (observerCommand_frame s c).trans (ih _)

/-- A whole turn of the observer: it uses up one entry of its script. -/
theorem observerTurn_frame (s : State) : ObserverFrame { s with obsScript := s.obsScript.tail } (observerTurn s) := by
  unfold observerTurn
  split
  · rename_i h
    rw [h]
    have : { s with obsScript := [] } = s := by rw [← h]
    show ObserverFrame { s with obsScript := [] } s
    rw [this]
    exact .refl s
  · rename_i h
    rw [h]
    exact observerCommands_frame ..

/-- Everything Notify does (R144): without an observer nothing; with one, a notification and the observer's turn. -/
theorem notify_cases (s : State) :
    (s.obs = none ∧ notify s = s) ∨
      ∃ o u, s.obs = some o ∧
        ObserverFrame { s with inNotify := true, notes := s.notes ++ [s.notification o], obsScript := s.obsScript.tail } u ∧
        notify s = { u with inNotify := false } := by
  rcases Option.eq_none_or_eq_some s.obs with h | ⟨o, h⟩
  · exact .inl ⟨h, by simp [notify, h]⟩
  · refine .inr ⟨o, _, h, observerTurn_frame { s with inNotify := true, notes := s.notes ++ [s.notification o] }, ?_⟩
    simp [notify, h]

/-- With nothing left in its script the observer issues no command. -/
theorem notify_silent {s : State} {o : ObserverId} (h : s.obs = some o) (hs : s.obsScript = []) :
    notify s = { s with inNotify := false, notes := s.notes ++ [s.notification o] } := by
  simp [notify, h, observerTurn, hs]

end Sys2Proof.Machine
end

