-- ==== Sys2Proof/Laws/Parser.lean ====
section
/-! SUPPORT. What the handlers, DISPATCH, one parser step and a pump can do (spec/44_dispatch.md R135 to R144, spec/41_frame_parser.md
R87 to R100), said once: a frame (`PumpFrame`) and what they keep of the invariant (`BufferInv`). -/

namespace Sys2Proof.Machine

/-! ### The frame of a pump -/

/-- What running the parser, the handlers and the observer leaves unchanged, and what it only appends to. -/
structure PumpFrame (s t : State) : Prop where
  cfg : t.cfg = s.cfg
  eState : t.eState = s.eState
  bound : t.bound = s.bound
  waitT0 : t.waitT0 = s.waitT0
  wait : t.wait = s.wait
  pumps : t.pumps = s.pumps
  hostQ : t.hostQ = s.hostQ
  opLatch : t.opLatch = s.opLatch
  inNotify : t.inNotify = s.inNotify ∨ t.inNotify = false
  pending : t.pending = s.pending ∨ t.pending = .none
  clk : s.clk ≤ t.clk
  silentClock : s.ticks = [] → t.ticks = [] ∧ t.clk = s.clk
  tx : s.tx <+: t.tx
  notes : s.notes <+: t.notes
  responses : s.responses <+: t.responses
  events : s.events <+: t.events

namespace PumpFrame

theorem refl (s : State) : PumpFrame s s := by
  constructor <;> first | rfl | exact .inl rfl | exact fun h => ⟨h, rfl⟩

theorem trans {s t u : State} (h : PumpFrame s t) (k : PumpFrame t u) : PumpFrame s u where
  cfg := k.cfg.trans h.cfg
  eState := k.eState.trans h.eState
  bound := k.bound.trans h.bound
  waitT0 := k.waitT0.trans h.waitT0
  wait := k.wait.trans h.wait
  pumps := k.pumps.trans h.pumps
  hostQ := k.hostQ.trans h.hostQ
  opLatch := k.opLatch.trans h.opLatch
  inNotify := by
    rcases k.inNotify with e | e
    · rw [e]; exact h.inNotify
    · exact .inr e
  pending := by
    rcases k.pending with e | e
    · rw [e]; exact h.pending
    · exact .inr e
  clk := Nat.le_trans h.clk k.clk
  silentClock := fun e => by
    obtain ⟨h1, h2⟩ := h.silentClock e
    obtain ⟨k1, k2⟩ := k.silentClock h1
    exact ⟨k1, k2.trans h2⟩
  tx := h.tx.trans k.tx
  notes := h.notes.trans k.notes
  responses := h.responses.trans k.responses
  events := h.events.trans k.events

/-- Parser registers and RX are free to change. -/
theorem setParser (s : State) (p : Parser) : PumpFrame s (s.setParser p) := by
  constructor <;> first | rfl | exact .inl rfl | exact fun h => ⟨h, rfl⟩

theorem memWrite (off : Nat) (b : Byte) (s : State) : PumpFrame s (s.memWrite off b) := by
  constructor <;> first | rfl | exact .inl rfl | exact fun h => ⟨h, rfl⟩

theorem setRx (s : State) (r : List Byte) : PumpFrame s { s with rx := r } := by
  constructor <;> first | rfl | exact .inl rfl | exact fun h => ⟨h, rfl⟩

theorem raise (e : Event) (s : State) : PumpFrame s (s.raise e) := by
  constructor <;> first | rfl | exact .inl rfl | exact fun h => ⟨h, rfl⟩ | exact List.prefix_append _ _

theorem tick (s : State) : PumpFrame s s.tick := by
  constructor <;> first
    | rfl | exact .inl rfl | exact Nat.le_add_right _ _ | exact fun h => by simp [h]

end PumpFrame

/-! ### Handlers and Notify -/

/-- Everything HANDLE can do (R136 to R142). -/
theorem handle_frame (s : State) :
    PumpFrame s (handle s) ∧ (handle s).parser = s.parser ∧ (handle s).rx = s.rx ∧ (handle s).obs = s.obs ∧
      (handle s).policy = s.policy ∧ (handle s).inNotify = s.inNotify ∧ (handle s).obsScript = s.obsScript := by
  unfold handle
  split
  case h_1 => exact ⟨by constructor <;> first | rfl | exact .inl rfl | exact .inr rfl | exact fun h => ⟨h, rfl⟩,
    rfl, rfl, rfl, rfl, rfl, rfl⟩
  case h_2 => exact ⟨by constructor <;> first | rfl | exact .inl rfl | exact .inr rfl | exact fun h => ⟨h, rfl⟩,
    rfl, rfl, rfl, rfl, rfl, rfl⟩
  case h_3 => exact ⟨by constructor <;> first | rfl | exact .inl rfl | exact .inr rfl | exact fun h => ⟨h, rfl⟩,
    rfl, rfl, rfl, rfl, rfl, rfl⟩
  case h_4 =>
    unfold handleNavStatus
    split
    · exact ⟨by constructor <;> first
        | rfl | exact .inl rfl | exact Nat.le_add_right _ _ | exact fun h => by simp [h], rfl, rfl, rfl, rfl, rfl, rfl⟩
    · exact ⟨.refl s, rfl, rfl, rfl, rfl, rfl, rfl⟩
  case h_5 =>
    unfold handleNavTimeutc
    split
    · exact ⟨by constructor <;> first
        | rfl | exact .inl rfl | exact Nat.le_add_right _ _ | exact fun h => by simp [h], rfl, rfl, rfl, rfl, rfl, rfl⟩
    · exact ⟨.refl s, rfl, rfl, rfl, rfl, rfl, rfl⟩
  case h_6 => exact ⟨.refl s, rfl, rfl, rfl, rfl, rfl, rfl⟩

/-- What Notify leaves of the rest of the state (R144). -/
theorem notify_frame (s : State) :
    PumpFrame s (notify s) ∧ (notify s).parser = s.parser ∧ (notify s).rx = s.rx ∧ (notify s).pending = s.pending ∧
      (notify s).ver = s.ver ∧ (notify s).tu = s.tu ∧ (notify s).st = s.st := by
  rcases notify_cases s with ⟨-, h⟩ | ⟨o, u, -, hu, h⟩
  · rw [h]; exact ⟨.refl s, rfl, rfl, rfl, rfl, rfl, rfl⟩
  · rw [h]
    refine ⟨?_, hu.parser, hu.rx, hu.pending, hu.ver, hu.tu, hu.st⟩
    constructor
    case cfg => exact hu.cfg
    case eState => exact hu.eState
    case bound => exact hu.bound
    case waitT0 => exact hu.waitT0
    case wait => exact hu.wait
    case pumps => exact hu.pumps
    case hostQ => exact hu.hostQ
    case opLatch => exact hu.opLatch
    case inNotify => exact .inr rfl
    case pending => exact .inl hu.pending
    case clk => exact Nat.le_of_eq hu.clk.symm
    case silentClock => exact fun e => ⟨hu.ticks.trans e, hu.clk⟩
    case tx => exact hu.tx
    case notes => show s.notes <+: u.notes; rw [hu.notes]; exact List.prefix_append _ _
    case responses => exact hu.responses
    case events => exact hu.events

/-- Everything DISPATCH can do to the rest of the state (R135). -/
theorem dispatchFrame_frame (s : State) :
    PumpFrame s (dispatchFrame s) ∧ (dispatchFrame s).parser = s.parser ∧ (dispatchFrame s).rx = s.rx := by
  obtain ⟨h1, h2, h3, -⟩ := handle_frame s
  obtain ⟨k1, k2, k3, -⟩ := notify_frame (handle s)
  exact ⟨h1.trans k1, k2.trans h2, k3.trans h3⟩

/-! ### Parser steps -/

/-- Everything a parser step can do to the rest of the state (R88). -/
theorem parserStep_frame (b : Byte) (s : State) :
    PumpFrame s (parserStep b s) ∧ (parserStep b s).rx = s.rx := by
  unfold parserStep
  split
  case h_1 => unfold stepWaitHeader1; split <;> exact ⟨by first | exact .setParser .. | exact .raise .., rfl⟩
  case h_2 =>
    unfold stepWaitHeader2
    split
    · exact ⟨.setParser .., rfl⟩
    · exact ⟨(PumpFrame.raise ..).trans (.setParser ..), rfl⟩
  case h_3 => exact ⟨.setParser .., rfl⟩
  case h_4 => exact ⟨.setParser .., rfl⟩
  case h_5 => exact ⟨.setParser .., rfl⟩
  case h_6 =>
    unfold stepLenHigh
    dsimp only
    split
    · exact ⟨(PumpFrame.raise ..).trans (.setParser ..), rfl⟩
    · split <;> exact ⟨.setParser .., rfl⟩
  case h_7 =>
    unfold stepPayload
    dsimp only
    split <;> exact ⟨(PumpFrame.memWrite ..).trans (.setParser ..), rfl⟩
  case h_8 => exact ⟨.setParser .., rfl⟩
  case h_9 =>
    unfold stepChecksumB finishFrame
    dsimp only
    split
    · obtain ⟨h1, -, h3⟩ := dispatchFrame_frame (s.setParser { s.parser with ckB := b })
      exact ⟨((PumpFrame.setParser ..).trans h1).trans (.setParser ..), h3⟩
    · exact ⟨((PumpFrame.setParser ..).trans (.raise ..)).trans (.setParser ..), rfl⟩

/-! ### FEED -/

/-- FEED with nothing to read. -/
theorem feed_nil {n : Nat} {s : State} (h : s.rx = []) : feed n s = s := by
  cases n <;> simp [feed, h]

/-- One turn of FEED. -/
theorem feed_cons {n : Nat} {s : State} {b : Byte} {rest : List Byte} (h : s.rx = b :: rest) :
    feed (n + 1) s = feed n (parserStep b { s with rx := rest }) := by
  simp [feed, h]

/-- FEED of a sum: a stream split across two FEEDs is consumed as if in one (R87). -/
theorem feed_add (a b : Nat) (s : State) : feed (a + b) s = feed b (feed a s) := by
  induction a generalizing s with
  | zero => simp [feed]
  | succ a ih =>
    rw [Nat.add_right_comm]
    rcases hr : s.rx with _ | ⟨c, rest⟩
    · rw [feed_nil hr, feed_nil hr, feed_nil hr]
    · rw [feed_cons hr, feed_cons hr, ih]

/-- Everything FEED can do: it consumes exactly n bytes, or all there are. -/
theorem feed_frame (n : Nat) (s : State) : PumpFrame s (feed n s) ∧ (feed n s).rx = s.rx.drop n := by
  induction n generalizing s with
  | zero => exact ⟨.refl s, rfl⟩
  | succ n ih =>
    rcases hr : s.rx with _ | ⟨b, rest⟩
    · rw [feed_nil hr]; exact ⟨.refl s, by simp [hr]⟩
    · rw [feed_cons hr]
      obtain ⟨h1, h2⟩ := parserStep_frame b { s with rx := rest }
      obtain ⟨k1, k2⟩ := ih (parserStep b { s with rx := rest })
      exact ⟨((PumpFrame.setRx s rest).trans h1).trans k1, by rw [k2, h2]; rfl⟩

/-- Everything a pump can do after the environment has acted: it consumes all of RX. -/
theorem pump_frame (s : State) : PumpFrame s.rxArrive (pump s) ∧ (pump s).rx = [] := by
  obtain ⟨h1, h2⟩ := feed_frame s.rxArrive.rx.length s.rxArrive
  exact ⟨h1, by rw [pump, h2]; exact List.drop_length⟩

/-! ### R20's bound -/

/-- Every parser step keeps the bound of spec/10_state.md R20, whatever the buffer holds. -/
theorem parserStep_inBounds {b : Byte} {s : State} (h : s.parserInBounds = true) : (parserStep b s).parserInBounds = true := by
  have hB := h
  unfold parserStep
  split
  case h_1 => unfold stepWaitHeader1; split; exacts [rfl, h]
  case h_2 => unfold stepWaitHeader2; split; exacts [rfl, rfl]
  case h_3 => rfl
  case h_4 => rfl
  case h_5 => rfl
  case h_6 =>
    unfold stepLenHigh
    dsimp only
    split
    · rfl
    · rename_i hmax
      split
      · exact decide_eq_true (Nat.le_of_not_lt hmax)
      · rename_i hz
        have : (wordOfBytes b (loByte s.parser.len)).toNat ≠ 0 := fun e => hz (BitVec.eq_of_toNat_eq (by simpa using e))
        simp only [State.parserInBounds, State.setParser_parser, State.setParser_cfg, Bool.and_eq_true]
        exact ⟨decide_eq_true (Nat.pos_of_ne_zero this), decide_eq_true (Nat.le_of_not_lt hmax)⟩
  case h_7 hst =>
    simp only [State.parserInBounds, hst, Bool.and_eq_true, decide_eq_true_eq] at hB
    unfold stepPayload
    dsimp only
    split
    · exact decide_eq_true hB.2
    · rename_i hne
      have hlt := s.parser.len.isLt
      have hne' : (s.parser.idx + 1#16).toNat ≠ s.parser.len.toNat := fun e => hne (BitVec.eq_of_toNat_eq e)
      simp only [State.parserInBounds, State.setParser_parser, State.memWrite_parser, hst, Bool.and_eq_true,
        decide_eq_true_eq, State.setParser_cfg, State.memWrite_cfg]
      rw [BitVec.toNat_add] at hne' ⊢
      simp only [BitVec.toNat_ofNat] at hne' ⊢
      omega
  case h_8 hst =>
    simp only [State.parserInBounds, hst] at hB
    exact hB
  case h_9 hst =>
    unfold stepChecksumB finishFrame
    dsimp only
    split <;> rfl

/-- FEED keeps it. -/
theorem feed_inBounds {n : Nat} {s : State} (h : s.parserInBounds = true) : (feed n s).parserInBounds = true := by
  induction n generalizing s with
  | zero => exact h
  | succ n ih =>
    rcases hr : s.rx with _ | ⟨b, rest⟩
    · rw [feed_nil hr]; exact h
    · rw [feed_cons hr]; exact ih (parserStep_inBounds h)

/-- A pump keeps it. -/
theorem pump_inBounds {s : State} (h : s.parserInBounds = true) : (pump s).parserInBounds = true := feed_inBounds h

/-! ### What a pump keeps of the invariant -/

/-- The part of the invariant that the parser and the handlers touch. -/
structure BufferInv (s : State) : Prop where
  pbufCanonical : Memory.wf s.parser.pbuf = true
  pbufInside : ∀ c ∈ s.parser.pbuf, c.1 < s.cfg.maxPayload
  inBounds : s.parserInBounds = true
  tuTimeWidth : s.tu.time < 2 ^ s.cfg.clockW
  stTimeWidth : s.st.time < 2 ^ s.cfg.clockW
  swString : storedString 30 s.ver.sw
  hwString : storedString 10 s.ver.hw
  ext0String : storedString 30 s.ver.ext0
  ext1String : storedString 30 s.ver.ext1
  ext2String : storedString 30 s.ver.ext2
  ext3String : storedString 30 s.ver.ext3

/-- `string` stops at the window's end and at a zero byte (spec/42_codec.md R109). -/
theorem string_stored (s : State) (off n : Nat) : storedString n (s.string off n) := by
  induction n generalizing off with
  | zero => simp [State.string, storedString]
  | succ n ih =>
    obtain ⟨h1, h2⟩ := ih (off + 1)
    unfold State.string
    dsimp only
    split
    · split
      · simp [storedString]
      · rename_i hc
        refine ⟨by simpa using h1, fun b hb => ?_⟩
        rcases List.mem_cons.mp hb with rfl | hb
        · exact hc
        · exact h2 b hb
    · simp [storedString]

theorem extension_stored (s : State) (k : Nat) : storedString 30 (s.extension k) := by
  unfold State.extension
  split
  · exact string_stored ..
  · exact ⟨by decide, by decide⟩

theorem now_lt (s : State) : s.now < 2 ^ s.cfg.clockW := Nat.mod_lt _ (Nat.two_pow_pos _)

/-- The handlers keep it (R137 to R142). -/
theorem handle_bufferInv {s : State} (h : BufferInv s) : BufferInv (handle s) := by
  unfold handle
  split
  case h_1 => exact ⟨h.1, h.2, h.3, h.4, h.5, h.6, h.7, h.8, h.9, h.10, h.11⟩
  case h_2 => exact ⟨h.1, h.2, h.3, h.4, h.5, h.6, h.7, h.8, h.9, h.10, h.11⟩
  case h_3 => exact ⟨h.1, h.2, h.3, h.4, h.5, string_stored .., string_stored .., extension_stored .., extension_stored ..,
    extension_stored .., extension_stored ..⟩
  case h_4 =>
    unfold handleNavStatus
    split
    · exact ⟨h.1, h.2, h.3, h.4, now_lt s.tick, h.6, h.7, h.8, h.9, h.10, h.11⟩
    · exact h
  case h_5 =>
    unfold handleNavTimeutc
    split
    · exact ⟨h.1, h.2, h.3, now_lt s.tick, h.5, h.6, h.7, h.8, h.9, h.10, h.11⟩
    · exact h
  case h_6 => exact h

/-- It depends on few fields. -/
theorem BufferInv.congr {s t : State} (h : BufferInv s) (hp : t.parser = s.parser) (hc : t.cfg = s.cfg)
    (hv : t.ver = s.ver) (ht : t.tu = s.tu) (hs : t.st = s.st) : BufferInv t := by
  have hb : t.parserInBounds = s.parserInBounds := by simp [State.parserInBounds, hp, hc]
  constructor
  · rw [hp]; exact h.1
  · rw [hp, hc]; exact h.2
  · rw [hb]; exact h.3
  · rw [ht, hc]; exact h.4
  · rw [hs, hc]; exact h.5
  all_goals rw [hv]
  exacts [h.6, h.7, h.8, h.9, h.10, h.11]

theorem notify_bufferInv {s : State} (h : BufferInv s) : BufferInv (notify s) := by
  obtain ⟨k, hp, -, -, hv, ht, hs⟩ := notify_frame s
  exact h.congr hp k.cfg hv ht hs

theorem dispatchFrame_bufferInv {s : State} (h : BufferInv s) : BufferInv (dispatchFrame s) :=
  notify_bufferInv (handle_bufferInv h)

/-- New parser registers over the same buffer keep it when they are in bounds. -/
theorem BufferInv.setParser {s : State} (h : BufferInv s) {p : Parser} (hb : p.pbuf = s.parser.pbuf)
    (hi : (s.setParser p).parserInBounds = true) : BufferInv (s.setParser p) := by
  refine ⟨?_, ?_, hi, h.4, h.5, h.6, h.7, h.8, h.9, h.10, h.11⟩
  · show Memory.wf p.pbuf = true; rw [hb]; exact h.1
  · show ∀ c ∈ p.pbuf, _; rw [hb]; exact h.2

theorem BufferInv.raise {s : State} (h : BufferInv s) (e : Event) : BufferInv (s.raise e) :=
  h.congr rfl rfl rfl rfl rfl

/-- Every parser step keeps it (R20, R88). -/
theorem parserStep_bufferInv {b : Byte} {s : State} (h : BufferInv s) : BufferInv (parserStep b s) := by
  have hB := h.inBounds
  unfold parserStep
  split
  case h_1 => unfold stepWaitHeader1; split; exacts [h.setParser rfl rfl, h.raise _]
  case h_2 => unfold stepWaitHeader2; split; exacts [h.setParser rfl rfl, (h.raise _).setParser rfl rfl]
  case h_3 => exact h.setParser rfl rfl
  case h_4 => exact h.setParser rfl rfl
  case h_5 => exact h.setParser rfl rfl
  case h_6 =>
    unfold stepLenHigh
    dsimp only
    split
    · exact (h.raise _).setParser rfl rfl
    · rename_i hmax
      split
      · exact h.setParser rfl (decide_eq_true (Nat.le_of_not_lt hmax))
      · rename_i hz
        refine h.setParser rfl ?_
        have : (wordOfBytes b (loByte s.parser.len)).toNat ≠ 0 := fun e => hz (BitVec.eq_of_toNat_eq (by simpa using e))
        simp only [State.parserInBounds, State.setParser_parser, State.setParser_cfg, Bool.and_eq_true]
        exact ⟨decide_eq_true (Nat.pos_of_ne_zero this), decide_eq_true (Nat.le_of_not_lt hmax)⟩
  case h_7 hst =>
    simp only [State.parserInBounds, hst, Bool.and_eq_true, decide_eq_true_eq] at hB
    unfold stepPayload
    dsimp only
    have h' : Memory.wf (s.memWrite s.parser.idx.toNat b).parser.pbuf = true ∧
        ∀ c ∈ (s.memWrite s.parser.idx.toNat b).parser.pbuf, c.1 < s.cfg.maxPayload := by
      refine ⟨Memory.wf_write h.1 .., fun c hc => ?_⟩
      rcases Memory.mem_write hc with hc | rfl
      · exact h.2 c hc
      · show s.parser.idx.toNat < _; omega
    split
    · exact ⟨h'.1, h'.2, decide_eq_true hB.2, h.4, h.5, h.6, h.7, h.8, h.9, h.10, h.11⟩
    · rename_i hne
      refine ⟨h'.1, h'.2, ?_, h.4, h.5, h.6, h.7, h.8, h.9, h.10, h.11⟩
      have hlt := s.parser.len.isLt
      have hne' : (s.parser.idx + 1#16).toNat ≠ s.parser.len.toNat := fun e => hne (BitVec.eq_of_toNat_eq e)
      simp only [State.parserInBounds, State.setParser_parser, State.memWrite_parser, hst, Bool.and_eq_true,
        decide_eq_true_eq, State.setParser_cfg, State.memWrite_cfg]
      rw [BitVec.toNat_add] at hne' ⊢
      simp only [BitVec.toNat_ofNat] at hne' ⊢
      omega
  case h_8 hst =>
    refine h.setParser rfl ?_
    simp only [State.parserInBounds, hst] at hB
    exact hB
  case h_9 hst =>
    have h1 : BufferInv (s.setParser { s.parser with ckB := b }) :=
      h.setParser rfl (by simpa [State.parserInBounds, hst] using hB)
    unfold stepChecksumB finishFrame
    dsimp only
    split
    · exact (dispatchFrame_bufferInv h1).setParser rfl rfl
    · exact (h1.raise _).setParser rfl rfl

theorem feed_bufferInv {n : Nat} {s : State} (h : BufferInv s) : BufferInv (feed n s) := by
  induction n generalizing s with
  | zero => exact h
  | succ n ih =>
    rcases hr : s.rx with _ | ⟨b, rest⟩
    · rw [feed_nil hr]; exact h
    · rw [feed_cons hr]
      exact ih (parserStep_bufferInv (h.congr rfl rfl rfl rfl rfl))

theorem pump_bufferInv {s : State} (h : BufferInv s) : BufferInv (pump s) :=
  feed_bufferInv (h.congr rfl rfl rfl rfl rfl)

/-! ### A whole frame -/

/-- The payload written byte by byte from offset `off`. -/
def Memory.writeBytes (m : List Host.Cell) (off : Nat) : List Byte → List Host.Cell
  | [] => m
  | b :: rest => Memory.writeBytes (Memory.write m off b) (off + 1) rest

theorem Memory.wf_writeBytes {m : List Host.Cell} (h : Memory.wf m = true) (off : Nat) (p : List Byte) :
    Memory.wf (Memory.writeBytes m off p) = true := by
  induction p generalizing m off with
  | nil => exact h
  | cons b rest ih => exact ih (Memory.wf_write h ..) _

theorem Memory.read_writeBytes_before {m : List Host.Cell} (h : Memory.wf m = true) {off x : Nat} (hx : x < off)
    (p : List Byte) : Memory.read (Memory.writeBytes m off p) x = Memory.read m x := by
  induction p generalizing m off with
  | nil => rfl
  | cons b rest ih =>
    rw [Memory.writeBytes, ih (Memory.wf_write h ..) (by omega), Memory.read_write_other h (by omega)]

theorem Memory.read_writeBytes_after {m : List Host.Cell} (h : Memory.wf m = true) {off x : Nat} {p : List Byte}
    (hx : off + p.length ≤ x) : Memory.read (Memory.writeBytes m off p) x = Memory.read m x := by
  induction p generalizing m off with
  | nil => rfl
  | cons b rest ih =>
    simp only [List.length_cons] at hx
    rw [Memory.writeBytes, ih (Memory.wf_write h ..) (by omega), Memory.read_write_other h (by omega)]

theorem Memory.read_writeBytes {m : List Host.Cell} (h : Memory.wf m = true) (off : Nat) {p : List Byte} {k : Nat}
    (hk : k < p.length) : Memory.read (Memory.writeBytes m off p) (off + k) = p[k] := by
  induction p generalizing m off k with
  | nil => simp at hk
  | cons b rest ih =>
    cases k with
    | zero =>
      rw [Memory.writeBytes, Memory.read_writeBytes_before (Memory.wf_write h ..) (by omega), Nat.add_zero,
        Memory.read_write_same h]
      rfl
    | succ k =>
      have := ih (Memory.wf_write h off b) (off + 1) (k := k) (by simpa using hk)
      rw [Memory.writeBytes, show off + (k + 1) = off + 1 + k by omega, this]
      rfl

/-- The state with a frame in the parser registers, as P_STATE is about to leave ChecksumB (spec/10_state.md R23). -/
def State.latched (s : State) (cls id : Byte) (p : List Byte) (ckA ckB : Byte) (rest : List Byte) : State :=
  { s with
    rx := rest
    parser :=
      { state := .checksumB, cls := cls, id := id, len := BitVec.ofNat 16 p.length, idx := BitVec.ofNat 16 p.length,
        ckA := ckA, ckB := ckB, pbuf := Memory.writeBytes s.parser.pbuf 0 p } }

/-- What the parser does with a latched frame (R97). -/
def State.complete (s : State) : State :=
  if s.validate then finishFrame (dispatchFrame s)
  else finishFrame (s.raise (.checksumMismatch s.parser.cls s.parser.id))

theorem toNat_ofNat_length {p : List Byte} (h : p.length ≤ 65535) : (BitVec.ofNat 16 p.length).toNat = p.length := by
  rw [BitVec.toNat_ofNat]; omega

/-- The Payload state consumes a payload's rest (R95). -/
theorem feed_payload {p rest : List Byte} {k : Nat} {s : State} (hs : s.parser.state = .payload) (hp : p ≠ [])
    (hk : s.parser.idx = BitVec.ofNat 16 k) (hl : s.parser.len = BitVec.ofNat 16 (k + p.length))
    (hle : k + p.length ≤ 65535) (hr : s.rx = p ++ rest) :
    feed p.length s =
      { s with
        rx := rest
        parser :=
          { s.parser with
            state := .checksumA
            idx := BitVec.ofNat 16 (k + p.length)
            pbuf := Memory.writeBytes s.parser.pbuf k p } } := by
  induction p generalizing k s with
  | nil => exact absurd rfl hp
  | cons b q ih =>
    simp only [List.length_cons] at hl hle
    have hkn : (BitVec.ofNat 16 k).toNat = k := by rw [BitVec.toNat_ofNat]; omega
    have hidx : BitVec.ofNat 16 k + 1#16 = BitVec.ofNat 16 (k + 1) := by
      apply BitVec.eq_of_toNat_eq; simp
    rw [List.length_cons, feed_cons (show s.rx = b :: (q ++ rest) by simpa using hr)]
    have hstep : parserStep b { s with rx := q ++ rest } = stepPayload b { s with rx := q ++ rest } := by
      simp [parserStep, hs]
    rw [hstep]
    simp only [stepPayload, State.memWrite_parser, hk, hkn, hidx]
    cases q with
    | nil =>
      have he : BitVec.ofNat 16 (k + 1) = s.parser.len := by rw [hl]; rfl
      rw [if_pos he]
      simp [feed, State.setParser, State.memWrite, Memory.writeBytes]
    | cons c q' =>
      have he : BitVec.ofNat 16 (k + 1) ≠ s.parser.len := by
        rw [hl]
        intro e
        have := congrArg BitVec.toNat e
        rw [BitVec.toNat_ofNat, BitVec.toNat_ofNat] at this
        simp only [List.length_cons] at this hle
        omega
      rw [if_neg he, ih (k := k + 1)]
      · simp only [State.setParser, State.memWrite, Memory.writeBytes,
          show k + ((c :: q').length + 1) = k + 1 + (c :: q').length by omega]
      · simpa [State.setParser, State.memWrite] using hs
      · simp
      · rfl
      · show s.parser.len = _
        rw [hl]; congr 1; simp only [List.length_cons]; omega
      · simp only [List.length_cons] at hle ⊢; omega
      · rfl

/-- The six header bytes of an acceptable frame (R89 to R94). -/
theorem feed_header {s : State} {cls id : Byte} {len : U16} {rest : List Byte} (hs : s.parser.state = .waitHeader1)
    (hmax : len.toNat ≤ s.cfg.maxPayload)
    (hr : s.rx = hdr1 :: hdr2 :: cls :: id :: loByte len :: hiByte len :: rest) :
    feed 6 s =
      { s with
        rx := rest
        parser :=
          { s.parser with
            cls := cls
            id := id
            len := len
            idx := 0#16
            state := if len = 0#16 then .checksumA else .payload } } := by
  have h0 : ¬ s.cfg.maxPayload < len.toNat := by omega
  rw [feed_cons hr]
  simp only [parserStep, hs, stepWaitHeader1, if_true, State.setParser]
  rw [feed_cons rfl]
  simp only [parserStep, stepWaitHeader2, if_true, State.setParser]
  rw [feed_cons rfl]
  simp only [parserStep, stepClass, State.setParser]
  rw [feed_cons rfl]
  simp only [parserStep, stepId, State.setParser]
  rw [feed_cons rfl]
  simp only [parserStep, stepLenLow, State.setParser]
  rw [feed_cons rfl]
  simp only [parserStep, stepLenHigh, State.setParser, loByte_zeroExtend, wordOfBytes_hi_lo, if_neg h0, feed]
  split <;> simp

/-- A whole acceptable frame from WaitHeader1 is latched and completed (R101, for any checksum bytes). -/
theorem feed_wireFrame {s : State} {cls id : Byte} {p : List Byte} {ckA ckB : Byte} {rest : List Byte}
    (hs : s.parser.state = .waitHeader1) (hmax : p.length ≤ s.cfg.maxPayload)
    (hr : s.rx = wireFrame cls id p ckA ckB ++ rest) :
    feed (p.length + 8) s = (s.latched cls id p ckA ckB rest).complete := by
  have hle : p.length ≤ 65535 := Nat.le_trans hmax s.cfg.maxPayload_le
  have hlen := toNat_ofNat_length hle
  have hr' : s.rx = hdr1 :: hdr2 :: cls :: id :: loByte (BitVec.ofNat 16 p.length) ::
      hiByte (BitVec.ofNat 16 p.length) :: (p ++ ckA :: ckB :: rest) := by
    rw [hr]; simp [wireFrame]
  have htail : ∀ u : State, u.parser.state = .checksumA → u.rx = ckA :: ckB :: rest →
      feed 2 u = stepChecksumB ckB { u with rx := rest, parser := { u.parser with ckA := ckA, state := .checksumB } } := by
    intro u hu hru
    rw [feed_cons hru]
    simp only [parserStep, hu, stepChecksumA, State.setParser]
    rw [feed_cons rfl]
    simp only [parserStep, feed]
  rw [show p.length + 8 = 6 + (p.length + 2) by omega, feed_add, feed_header hs (by rw [hlen]; exact hmax) hr', feed_add]
  cases p with
  | nil =>
    rw [show feed ([] : List Byte).length _ = _ from rfl, htail _ rfl rfl]
    rfl
  | cons b q =>
    have hne : BitVec.ofNat 16 (b :: q).length ≠ 0#16 := by
      intro e
      have := congrArg BitVec.toNat e
      rw [hlen] at this
      simp at this
    rw [if_neg hne, feed_payload (k := 0) (rest := ckA :: ckB :: rest) rfl (by simp) rfl (by simp) (by simpa using hle) rfl,
      htail _ rfl rfl]
    simp only [Nat.zero_add]
    rfl

/-- The payload of a latched frame is the frame's (R23). -/
theorem latched_payload {s : State} (hw : Memory.wf s.parser.pbuf = true) {p : List Byte} (hle : p.length ≤ 65535)
    (cls id ckA ckB : Byte) (rest : List Byte) : (s.latched cls id p ckA ckB rest).payload = p := by
  unfold State.payload
  simp only [State.latched, toNat_ofNat_length hle]
  exact Memory.readBytes_eq fun k hk => by
    have := Memory.read_writeBytes hw 0 hk
    simpa using this

/-- Validate on a latched frame (spec/40_checksum.md R83 to R85). -/
theorem latched_validate {s : State} (hw : Memory.wf s.parser.pbuf = true) {p : List Byte} (hle : p.length ≤ 65535)
    (cls id ckA ckB : Byte) (rest : List Byte) : (s.latched cls id p ckA ckB rest).validate = true ↔
      s.policy = .permissive ∨ checksum cls id (BitVec.ofNat 16 p.length) p = (ckA, ckB) := by
  have hp := latched_payload hw hle cls id ckA ckB rest
  unfold State.validate
  show (match s.policy with | .permissive => true | .strict => _) = true ↔ _
  cases s.policy with
  | permissive => simp
  | strict => simp [State.validateStrict, hp]; rfl

end Sys2Proof.Machine
end

