-- ==== Sys2Proof/Laws/PerInstr.lean ====
section
/-! SUPPORT. A law of every instruction, one lemma per constructor: the first token of its encoding, written out from the tables of
spec/30_encoding.md R60, R71 and R72. -/

namespace Sys2Proof.Laws

/-- The opcode (R71), the internal code (R72), or the first header byte of a frame (R60). -/
def leadByte : Instr → Byte
  | .bind => 0x01#8
  | .attachObserver _ => 0x02#8
  | .detachObserver => 0x03#8
  | .setChecksumPolicy _ => 0x04#8
  | .initEngine => 0x10#8
  | .process => 0x11#8
  | .subscribeStatus _ => 0x12#8
  | .subscribeTimeutc _ => 0x13#8
  | .requestVersion => 0x20#8
  | .requestStatus => 0x21#8
  | .requestTimeutc => 0x22#8
  | .readVersion => 0x30#8
  | .readTimeutc => 0x31#8
  | .readStatus => 0x32#8
  | .readInitialized => 0x33#8
  | .setMessageRate _ _ _ => 0x80#8
  | .pollMessage _ _ => 0x81#8
  | .disableDefaultNmea => 0x82#8
  | .waitPending => 0x83#8
  | .feed _ => 0x84#8
  | .sendFrame _ _ _ => 0x85#8
  | .dispatch => 0x86#8
  | .rxAckAck _ _ _ => 0xB5#8
  | .rxAckNack _ _ _ => 0xB5#8
  | .rxMonVer _ _ _ => 0xB5#8
  | .rxNavStatus _ _ _ => 0xB5#8
  | .rxNavTimeutc _ _ _ => 0xB5#8
  | .txCfgMsg _ _ _ => 0xB5#8
  | .txMonVerPoll => 0xB5#8
  | .txNavStatusPoll => 0xB5#8
  | .txNavTimeutcPoll => 0xB5#8
  | .rxUbxOther _ _ _ _ _ => 0xB5#8

namespace LeadToken

/-- The encoding starts with the byte of the instruction's table row. -/
def Statement (i : Instr) : Prop := (encode i).head? = some (.byte (leadByte i))

theorem bind : Statement .bind := rfl
theorem attachObserver (o : ObserverId) : Statement (.attachObserver o) := rfl
theorem detachObserver : Statement .detachObserver := rfl
theorem setChecksumPolicy (p : Byte) : Statement (.setChecksumPolicy p) := rfl
theorem initEngine : Statement .initEngine := rfl
theorem process : Statement .process := rfl
theorem subscribeStatus (r : Byte) : Statement (.subscribeStatus r) := rfl
theorem subscribeTimeutc (r : Byte) : Statement (.subscribeTimeutc r) := rfl
theorem requestVersion : Statement .requestVersion := rfl
theorem requestStatus : Statement .requestStatus := rfl
theorem requestTimeutc : Statement .requestTimeutc := rfl
theorem readVersion : Statement .readVersion := rfl
theorem readTimeutc : Statement .readTimeutc := rfl
theorem readStatus : Statement .readStatus := rfl
theorem readInitialized : Statement .readInitialized := rfl
theorem setMessageRate (c : Byte) (i : Byte) (r : Byte) : Statement (.setMessageRate c i r) := rfl
theorem pollMessage (c : Byte) (i : Byte) : Statement (.pollMessage c i) := rfl
theorem disableDefaultNmea : Statement .disableDefaultNmea := rfl
theorem waitPending : Statement .waitPending := rfl
theorem feed (n : Nat) : Statement (.feed n) := rfl
theorem sendFrame (c : Byte) (i : Byte) (payload : List Byte) : Statement (.sendFrame c i payload) := rfl
theorem dispatch : Statement .dispatch := rfl
theorem rxAckAck (p : List Byte) (a : Byte) (b : Byte) : Statement (.rxAckAck p a b) := rfl
theorem rxAckNack (p : List Byte) (a : Byte) (b : Byte) : Statement (.rxAckNack p a b) := rfl
theorem rxMonVer (p : List Byte) (a : Byte) (b : Byte) : Statement (.rxMonVer p a b) := rfl
theorem rxNavStatus (p : List Byte) (a : Byte) (b : Byte) : Statement (.rxNavStatus p a b) := rfl
theorem rxNavTimeutc (p : List Byte) (a : Byte) (b : Byte) : Statement (.rxNavTimeutc p a b) := rfl
theorem txCfgMsg (c : Byte) (i : Byte) (r : Byte) : Statement (.txCfgMsg c i r) := rfl
theorem txMonVerPoll : Statement .txMonVerPoll := rfl
theorem txNavStatusPoll : Statement .txNavStatusPoll := rfl
theorem txNavTimeutcPoll : Statement .txNavTimeutcPoll := rfl
theorem rxUbxOther (c : Byte) (i : Byte) (p : List Byte) (a : Byte) (b : Byte) : Statement (.rxUbxOther c i p a b) := rfl

end LeadToken

end Sys2Proof.Laws
end

