-- ==== Sys2Proof/Laws/Session.lean ====
section
/-! SUPPORT. What a wait can do (spec/43_session.md R118, R129 to R132): the states it starts in, one iteration case by case, what
the whole run of a wait leaves unchanged (`SessionFrame`), and what it keeps of the invariant (`SessionInv`). -/

namespace Sys2Proof.Machine

/-! ### Starting a wait -/

theorem startWait_eq (w : Waiter) (s : State) :
    startWait w s =
      { s with
        clk := s.clk + s.ticks.headD 0
        ticks := s.ticks.tail
        waitT0 := (s.clk + s.ticks.headD 0) % 2 ^ s.cfg.clockW
        wait := some w } := rfl

/-- Everything SET_MESSAGE_RATE does before its wait (R129). -/
theorem startRate_eq (w : Waiter) (c i r : Byte) (s : State) :
    startRate w c i r s =
      { s with
        pending := .awaitingAck
        tx := s.tx ++ encodeFrame 0x06#8 0x01#8 [c, i, r]
        clk := s.clk + s.ticks.headD 0
        ticks := s.ticks.tail
        waitT0 := (s.clk + s.ticks.headD 0) % 2 ^ s.cfg.clockW
        wait := some w } := by
  rw [startRate, sendCfgMsg_eq]; rfl

/-- Everything INITIALIZE does before its first wait (R118). -/
theorem startInit_eq (s : State) :
    startInit s =
      { s with
        eState := .awaitingVersionResponse
        pending := .awaitingVersion
        tx := s.tx ++ encodeFrame 0x0A#8 0x04#8 []
        clk := s.clk + s.ticks.headD 0
        ticks := s.ticks.tail
        waitT0 := (s.clk + s.ticks.headD 0) % 2 ^ s.cfg.clockW
        wait := some .initVersion } := by
  rw [startInit, sendPoll_eq]; rfl

/-! ### Iterations -/

theorem drive_done {n : Nat} {s : State} (h : s.wait = none) : drive n s = s := by
  cases n <;> simp [drive, h]

theorem drive_succ {n : Nat} {s : State} {w : Waiter} (h : s.wait = some w) :
    drive (n + 1) s = drive n (waitIteration w s) := by
  simp [drive, h]

theorem drive_one {s : State} {w : Waiter} (h : s.wait = some w) : drive 1 s = waitIteration w s := drive_succ (n := 0) h

theorem drive_add (a b : Nat) (s : State) : drive (a + b) s = drive b (drive a s) := by
  induction a generalizing s with
  | zero => simp [drive]
  | succ a ih =>
    rw [Nat.add_right_comm]
    rcases hw : s.wait with _ | w
    · rw [drive_done hw, drive_done hw, drive_done hw]
    · rw [drive_succ hw, drive_succ hw, ih]

/-- The pending check comes first (92_eei_decisions.md D4). -/
theorem waitIteration_cleared {w : Waiter} {s : State} (h : (pump s).pending = .none) :
    waitIteration w s = resume w .ok { pump s with wait := none } := by
  simp [waitIteration, h]

theorem waitIteration_expired {w : Waiter} {s : State} (h : (pump s).pending ≠ .none)
    (he : (pump s).tick.expired = true) :
    waitIteration w s = resume w .timeout (State.raise (.timeout w) { (pump s).tick with pending := .none, wait := none }) := by
  simp [waitIteration, h, he]

theorem waitIteration_goesOn {w : Waiter} {s : State} (h : (pump s).pending ≠ .none)
    (he : (pump s).tick.expired = false) : waitIteration w s = (pump s).tick := by
  simp [waitIteration, h, he]

/-- A pump with nothing to read is the environment's act alone. -/
theorem pump_silent {s : State} (h : s.rxArrive.rx = []) : pump s = s.rxArrive := feed_nil h

/-- Elapsed time is the time that passed, when it is shorter than one turn of the clock (spec/60_exceptions.md R162). -/
theorem elapsed_eq {W t0 d : Nat} (h : d < 2 ^ W) : elapsed W ((t0 + d) % 2 ^ W) (t0 % 2 ^ W) = d := by
  have hp : 0 < 2 ^ W := Nat.two_pow_pos W
  rw [elapsed]
  generalize 2 ^ W = M at h hp
  rw [Nat.mod_mod, Nat.add_mod t0 d M, Nat.mod_eq_of_lt h]
  have h0 : t0 % M < M := Nat.mod_lt _ hp
  generalize t0 % M = r at h0
  rcases Nat.lt_or_ge (r + d) M with hl | hl
  · rw [Nat.mod_eq_of_lt hl, show r + d + (M - r) = d + M by omega, Nat.add_mod_right, Nat.mod_eq_of_lt h]
  · rw [Nat.mod_eq_sub_mod hl, Nat.mod_eq_of_lt (show r + d - M < M by omega), show r + d - M + (M - r) = d by omega,
      Nat.mod_eq_of_lt h]

/-- Time that passes adds to the elapsed time, as long as the sum is shorter than one turn of the clock. -/
theorem elapsed_add {W x d t0 : Nat} (h : elapsed W (x % 2 ^ W) t0 + d < 2 ^ W) :
    elapsed W ((x + d) % 2 ^ W) t0 = elapsed W (x % 2 ^ W) t0 + d := by
  simp only [elapsed, Nat.mod_add_mod] at h ⊢
  rw [← Nat.mod_eq_of_lt h, Nat.mod_add_mod, Nat.add_right_comm]

/-! ### Waits in which nothing arrives -/

/-- A pump before which only time passes. -/
theorem pump_quiet {s : State} {d : Nat} {rest : List Stim} (hr : s.rx = []) (hp : s.pumps = ⟨[], d⟩ :: rest) :
    pump s = { s with pumps := rest, clk := s.clk + d } := by
  rw [pump_silent (by simp [hr, hp])]
  simp [State.rxArrive, hp, State.stimulate, hr]

/-- A pump for which the environment has nothing in store. -/
theorem pump_idle {s : State} (hr : s.rx = []) (hp : s.pumps = []) : pump s = s := by
  have h : s.rxArrive = s := by simp [State.rxArrive, hp, State.stimulate, Stim.silent]; rw [← hp]
  rw [pump_silent (by rw [h]; exact hr), h]

/-- A Now() before which no time passes. -/
theorem tick_idle {s : State} (ht : s.ticks = []) : s.tick = s := by
  simp [State.tick, ht]; rw [← ht]

theorem timeoutMs_lt_turn (cfg : Config) : timeoutMs < 2 ^ cfg.clockW :=
  Nat.lt_of_lt_of_le (by decide) (Nat.pow_le_pow_right (by decide) cfg.clockW_ge)

/-- The first iteration of a wait, when nothing arrives before the deadline has passed. -/
theorem waitIteration_quiet_expired {w : Waiter} {s : State} {d : Nat} {rest : List Stim} (hr : s.rx = [])
    (ht : s.ticks = []) (hp : s.pumps = ⟨[], d⟩ :: rest) (h0 : s.waitT0 = s.clk % 2 ^ s.cfg.clockW)
    (h5 : timeoutMs ≤ d) (hd : d < 2 ^ s.cfg.clockW) (hpe : s.pending ≠ .none) :
    waitIteration w s =
      resume w .timeout
        { s with
          pumps := rest
          clk := s.clk + d
          pending := .none
          wait := none
          events := s.events ++ [.timeout w] } := by
  have hq := pump_quiet hr hp
  have ht' : (pump s).tick = pump s := tick_idle (by rw [hq]; exact ht)
  rw [waitIteration_expired (by rw [hq]; exact hpe), ht', hq]
  · rfl
  · rw [ht', hq]
    simp only [State.expired, State.now, h0, elapsed_eq hd]
    exact decide_eq_true h5

/-- Time that passes while nothing is sampled adds to the elapsed time of a wait, as long as it stays below the deadline. -/
theorem elapsed_later {s : State} {d : Nat} (h : elapsed s.cfg.clockW s.now s.waitT0 + d < timeoutMs) :
    elapsed s.cfg.clockW ((s.clk + d) % 2 ^ s.cfg.clockW) s.waitT0 = elapsed s.cfg.clockW s.now s.waitT0 + d := by
  have := timeoutMs_lt_turn s.cfg
  exact elapsed_add (by rw [← State.now]; omega)

/-- Iterations of a wait in which nothing arrives and the deadline is not reached: time passes, and nothing else. -/
theorem drive_quiet_prefix {w : Waiter} {l more : List Stim} {s : State} (hw : s.wait = some w) (hr : s.rx = [])
    (ht : s.ticks = []) (hp : s.pumps = l ++ more) (hl : ∀ st ∈ l, st.rx = []) (hpe : s.pending ≠ .none)
    (hlt : elapsed s.cfg.clockW s.now s.waitT0 + (l.map Stim.clk).sum < timeoutMs) :
    drive l.length s = { s with pumps := more, clk := s.clk + (l.map Stim.clk).sum } := by
  induction l generalizing s with
  | nil => simp [drive]; rw [← List.nil_append more, ← hp]
  | cons st l ih =>
    simp only [List.map_cons, List.sum_cons] at hlt ⊢
    have hst : st = ⟨[], st.clk⟩ := by rw [← hl st (by simp)]
    have hq := pump_quiet (s := s) (d := st.clk) (rest := l ++ more) hr (by rw [hp, ← hst]; rfl)
    have ht' : (pump s).tick = { s with pumps := l ++ more, clk := s.clk + st.clk } := by
      rw [tick_idle (by rw [hq]; exact ht), hq]
    have he := elapsed_later (s := s) (d := st.clk) (by omega)
    rw [List.length_cons, drive_succ hw, waitIteration_goesOn (by rw [hq]; exact hpe), ht']
    · rw [ih (s := { s with pumps := l ++ more, clk := s.clk + st.clk }) hw hr ht rfl (fun x hx => hl x (by simp [hx])) hpe]
      · simp [Nat.add_assoc]
      · show elapsed _ ((s.clk + st.clk) % _) _ + _ < _; rw [he]; omega
    · rw [ht']; exact decide_eq_false (Nat.not_le.mpr (by show elapsed _ ((s.clk + st.clk) % _) _ < _; rw [he]; omega))

/-- A run of a wait in which nothing arrives and the deadline is not reached: the wait goes on. -/
theorem drive_quiet {w : Waiter} {s : State} (hw : s.wait = some w) (hr : s.rx = []) (ht : s.ticks = [])
    (hl : ∀ st ∈ s.pumps, st.rx = []) (hpe : s.pending ≠ .none)
    (hlt : elapsed s.cfg.clockW s.now s.waitT0 + (s.pumps.map Stim.clk).sum < timeoutMs) :
    runWait s = { s with pumps := [], clk := s.clk + (s.pumps.map Stim.clk).sum } := by
  rw [runWait, drive_add, drive_quiet_prefix (more := []) hw hr ht (by simp) hl hpe hlt]
  have hq := pump_idle (s := { s with pumps := [], clk := s.clk + (s.pumps.map Stim.clk).sum }) hr rfl
  refine (drive_one (w := w) (by exact hw)).trans ?_
  rw [waitIteration_goesOn (by rw [hq]; exact hpe), hq, tick_idle (by exact ht)]
  rw [hq, tick_idle (by exact ht)]
  refine decide_eq_false (Nat.not_le.mpr ?_)
  show elapsed _ ((s.clk + _) % _) _ < _
  rw [elapsed_later hlt]; exact hlt

/-! ### A step of a wait -/

/-- A step with a wait in progress runs that wait (log 1). -/
theorem step_of_wait {w : Waiter} {s : State} (hw : s.wait = some w) (hb : s.parserInBounds = true) :
    step s = .next (runWait s) := by
  simp [step, hw, continueWait, hb, guardPbuf]

/-- The run of a wait for which the environment has an entry in store: one iteration, then the rest. -/
theorem runWait_cons {w : Waiter} {st : Stim} {rest : List Stim} {s : State} (hw : s.wait = some w)
    (hp : s.pumps = st :: rest) : runWait s = drive (rest.length + 1) (waitIteration w s) := by
  rw [runWait, hp, List.length_cons, drive_succ hw]

/-- With no entry in store: one iteration. -/
theorem runWait_nil {w : Waiter} {s : State} (hw : s.wait = some w) (hp : s.pumps = []) :
    runWait s = waitIteration w s := by
  rw [runWait, hp, List.length_nil]; exact drive_one hw

/-! ### What a wait leaves unchanged -/

/-- What the blocking operations leave unchanged, and what they only append to. -/
structure SessionFrame (s t : State) : Prop where
  cfg : t.cfg = s.cfg
  bound : t.bound = s.bound
  hostQ : t.hostQ = s.hostQ
  opLatch : t.opLatch = s.opLatch
  clk : s.clk ≤ t.clk
  tx : s.tx <+: t.tx
  notes : s.notes <+: t.notes
  responses : s.responses <+: t.responses
  events : s.events <+: t.events

namespace SessionFrame

theorem refl (s : State) : SessionFrame s s := by
  constructor <;> rfl

theorem trans {s t u : State} (h : SessionFrame s t) (k : SessionFrame t u) : SessionFrame s u where
  cfg := k.cfg.trans h.cfg
  bound := k.bound.trans h.bound
  hostQ := k.hostQ.trans h.hostQ
  opLatch := k.opLatch.trans h.opLatch
  clk := Nat.le_trans h.clk k.clk
  tx := h.tx.trans k.tx
  notes := h.notes.trans k.notes
  responses := h.responses.trans k.responses
  events := h.events.trans k.events

theorem of_pump {s t : State} (h : PumpFrame s t) : SessionFrame s t :=
  ⟨h.cfg, h.bound, h.hostQ, h.opLatch, h.clk, h.tx, h.notes, h.responses, h.events⟩

theorem rxArrive (s : State) : SessionFrame s s.rxArrive := by
  constructor <;> first | rfl | exact Nat.le_add_right _ _

theorem tick (s : State) : SessionFrame s s.tick := of_pump (.tick s)

theorem startRate (w : Waiter) (c i r : Byte) (s : State) : SessionFrame s (startRate w c i r s) := by
  rw [startRate_eq]
  constructor <;> first | rfl | exact Nat.le_add_right _ _ | exact List.prefix_append _ _

theorem startWait (w : Waiter) (s : State) : SessionFrame s (startWait w s) := by
  constructor <;> first | rfl | exact Nat.le_add_right _ _

theorem startInit (s : State) : SessionFrame s (startInit s) := by
  rw [startInit_eq]
  constructor <;> first | rfl | exact Nat.le_add_right _ _ | exact List.prefix_append _ _

theorem answerTo (who : Issuer) (c : ResultCode) (d : ReadData) (s : State) : SessionFrame s (s.answerTo who c d) := by
  constructor <;> first | rfl | exact List.prefix_append _ _

theorem answer (c : ResultCode) (d : ReadData) (s : State) : SessionFrame s (s.answer c d) := answerTo ..

theorem raise (e : Event) (s : State) : SessionFrame s (s.raise e) := by
  constructor <;> first | rfl | exact List.prefix_append _ _

theorem setEState (e : EState) (s : State) : SessionFrame s { s with eState := e } := by
  constructor <;> rfl

theorem leaveWait (s : State) (p : Pending) : SessionFrame s { s with pending := p, wait := none } := by
  constructor <;> rfl

/-- Whatever the waiting operation does with its result (R118, R131). -/
theorem resume (w : Waiter) (r : ResultCode) (s : State) : SessionFrame s (resume w r s) := by
  unfold Machine.resume
  split
  · exact answerTo ..
  · exact answerTo ..
  · split
    · exact startRate ..
    · exact refl s
  · exact answer ..
  · exact answer ..
  · split
    · exact (setEState _ s).trans (answer ..)
    · exact startRate ..
  · split
    · exact startRate ..
    · exact (setEState _ s).trans (answer ..)

theorem pump (s : State) : SessionFrame s (pump s) := (rxArrive s).trans (of_pump (pump_frame s).1)

theorem waitIteration (w : Waiter) (s : State) : SessionFrame s (waitIteration w s) := by
  unfold Machine.waitIteration
  dsimp only
  split
  · exact (pump s).trans (SessionFrame.trans (by constructor <;> rfl) (resume ..))
  · split
    · exact ((pump s).trans (tick _)).trans ((leaveWait _ _).trans ((raise ..).trans (resume ..)))
    · exact (pump s).trans (tick _)

theorem drive (n : Nat) (s : State) : SessionFrame s (drive n s) := by
  induction n generalizing s with
  | zero => exact refl s
  | succ n ih =>
    rcases hw : s.wait with _ | w
    · rw [drive_done hw]; exact refl s
    · rw [drive_succ hw]; exact (waitIteration w s).trans (ih _)

theorem runWait (s : State) : SessionFrame s (runWait s) := drive ..

end SessionFrame

/-! ### E_STATE -/

theorem startRate_eState (w : Waiter) (c i r : Byte) (s : State) : (startRate w c i r s).eState = s.eState := by
  rw [startRate_eq]

theorem startRate_wait (w : Waiter) (c i r : Byte) (s : State) : (startRate w c i r s).wait = some w := rfl

/-- Only INITIALIZE's own waits write E_STATE (spec/10_state.md R25); any other wait is followed by none of INITIALIZE's. -/
theorem resume_eState {w : Waiter} (h : w.inInit = false) (r : ResultCode) {s : State} (hs : s.wait = none) :
    (resume w r s).eState = s.eState ∧ ∀ w', (resume w r s).wait = some w' → w'.inInit = false := by
  have hnone : ∀ {t : State}, t.wait = none → ∀ w', t.wait = some w' → w'.inInit = false := by
    intro t ht w' hw'; rw [ht] at hw'; cases hw'
  cases w with
  | waitPending => exact ⟨rfl, hnone hs⟩
  | setMessageRate => exact ⟨rfl, hnone hs⟩
  | subscribeStatus => exact ⟨rfl, hnone hs⟩
  | subscribeTimeutc => exact ⟨rfl, hnone hs⟩
  | disableNmea k =>
    unfold resume
    dsimp only
    split
    · refine ⟨startRate_eState .., fun w' hw' => ?_⟩
      rw [startNmea, startRate_wait] at hw'
      cases hw'; rfl
    · exact ⟨rfl, hnone hs⟩
  | initVersion => cases h
  | initNmea k => cases h

theorem waitIteration_eState {w : Waiter} (h : w.inInit = false) {s : State} (hs : s.wait = some w) :
    (waitIteration w s).eState = s.eState ∧ ∀ w', (waitIteration w s).wait = some w' → w'.inInit = false := by
  have hp := (pump_frame s).1
  have he : (pump s).eState = s.eState := hp.eState
  have hw : (pump s).wait = some w := hp.wait.trans hs
  unfold waitIteration
  dsimp only
  split
  · obtain ⟨h1, h2⟩ := resume_eState h .ok (s := { pump s with wait := none }) rfl
    exact ⟨h1.trans he, h2⟩
  · split
    · obtain ⟨h1, h2⟩ := resume_eState h .timeout
        (s := State.raise (.timeout w) { (pump s).tick with pending := .none, wait := none }) rfl
      exact ⟨h1.trans he, h2⟩
    · refine ⟨he, fun w' hw' => ?_⟩
      rw [State.tick_wait, hw] at hw'
      cases hw'; exact h

theorem drive_eState {n : Nat} {s : State} (h : ∀ w, s.wait = some w → w.inInit = false) :
    (drive n s).eState = s.eState ∧ ∀ w, (drive n s).wait = some w → w.inInit = false := by
  induction n generalizing s with
  | zero => exact ⟨rfl, h⟩
  | succ n ih =>
    rcases hw : s.wait with _ | w
    · rw [drive_done hw]; exact ⟨rfl, h⟩
    · rw [drive_succ hw]
      obtain ⟨h1, h2⟩ := waitIteration_eState (h w hw) hw
      obtain ⟨k1, k2⟩ := ih h2
      exact ⟨k1.trans h1, k2⟩

/-! ### What a wait keeps of the invariant -/

/-- The part of the invariant that the session controller touches, for a state in which the engine is inside the operation of
`w?` (inside none when `w?` is `none`). -/
structure SessionInv (w? : Option Waiter) (s : State) : Prop where
  notNotifying : s.inNotify = false
  awaiting : s.eState = .awaitingVersionResponse ↔ ∃ w, w? = some w ∧ w.inInit = true
  started : s.eState ≠ .uninitialized → s.bound = true
  waitT0Width : s.waitT0 < 2 ^ s.cfg.clockW

/-- The invariant's two parts together, and what E_PENDING is (R133). -/
theorem Inv.of_parts {s : State} (hb : BufferInv s) (hs : SessionInv s.wait s) (hn : s.wait = none → s.pending = .none)
    (hw : s.wait ≠ none → s.pending ≠ .none) : Inv s :=
  ⟨hb.pbufCanonical, hb.pbufInside, hb.inBounds, hs.notNotifying, hn, hw, hs.awaiting, hs.started, hs.waitT0Width,
    hb.tuTimeWidth, hb.stTimeWidth, hb.swString, hb.hwString, hb.ext0String, hb.ext1String, hb.ext2String, hb.ext3String⟩

theorem Inv.buffer {s : State} (h : Inv s) : BufferInv s :=
  ⟨h.pbufCanonical, h.pbufInside, h.inBounds, h.tuTimeWidth, h.stTimeWidth, h.swString, h.hwString, h.ext0String,
    h.ext1String, h.ext2String, h.ext3String⟩

theorem Inv.session {s : State} (h : Inv s) : SessionInv s.wait s :=
  ⟨h.notNotifying, h.awaiting, h.started, h.waitT0Width⟩

/-- It depends on few fields. -/
theorem SessionInv.congr {w? : Option Waiter} {s t : State} (h : SessionInv w? s) (hn : t.inNotify = s.inNotify)
    (he : t.eState = s.eState) (hb : t.bound = s.bound) (ht : t.waitT0 = s.waitT0) (hc : t.cfg = s.cfg) :
    SessionInv w? t := by
  constructor
  · rw [hn]; exact h.1
  · rw [he]; exact h.2
  · rw [he, hb]; exact h.3
  · rw [ht, hc]; exact h.4

/-- A pump keeps it. -/
theorem SessionInv.pump {w? : Option Waiter} {s : State} (h : SessionInv w? s) : SessionInv w? (pump s) := by
  have hp := (pump_frame s).1
  refine h.congr ?_ hp.eState hp.bound hp.waitT0 hp.cfg
  rcases hp.inNotify with e | e
  · exact e
  · rw [e, h.1]

/-- Starting a wait of the same kind keeps it. -/
theorem SessionInv.startRate {w? : Option Waiter} {s : State} (h : SessionInv w? s) {w : Waiter}
    (hw : w.inInit = true ↔ ∃ v, w? = some v ∧ v.inInit = true) (c i r : Byte) :
    SessionInv (some w) (startRate w c i r s) := by
  rw [startRate_eq]
  refine ⟨h.1, ?_, h.3, Nat.mod_lt _ (Nat.two_pow_pos _)⟩
  show s.eState = _ ↔ _
  rw [h.2, ← hw]
  exact ⟨fun e => ⟨w, rfl, e⟩, fun ⟨v, hv, e⟩ => by cases hv; exact e⟩

/-- The waiting operation goes on from the end of its wait: it has returned and nothing is pending, or it is in its next wait. -/
theorem resume_sessionInv {w : Waiter} {s : State} (h : SessionInv (some w) s) (hs : s.wait = none)
    (hp : s.pending = .none) (r : ResultCode) :
    SessionInv (resume w r s).wait (resume w r s) ∧ ((resume w r s).wait = none → (resume w r s).pending = .none) ∧
      ((resume w r s).wait ≠ none → (resume w r s).pending ≠ .none) := by
  have hno : w.inInit = false → s.eState ≠ .awaitingVersionResponse := fun hw he => by
    obtain ⟨v, hv, hi⟩ := h.2.mp he
    cases hv; rw [hw] at hi; cases hi
  have hyes : w.inInit = true → s.bound = true := fun hw => by
    refine h.3 fun he => ?_
    have := h.2.mpr ⟨w, rfl, hw⟩
    rw [he] at this; cases this
  have hiff : ∀ {e : EState}, e ≠ .awaitingVersionResponse →
      (e = .awaitingVersionResponse ↔ ∃ v, (none : Option Waiter) = some v ∧ v.inInit = true) :=
    fun he => ⟨fun e => absurd e he, fun ⟨_, hv, _⟩ => by cases hv⟩
  have hans : ∀ {t : State}, t.wait = none → t.pending = .none → t.inNotify = false →
      t.eState ≠ .awaitingVersionResponse → (t.eState ≠ .uninitialized → t.bound = true) →
      t.waitT0 < 2 ^ t.cfg.clockW →
      SessionInv t.wait t ∧ (t.wait = none → t.pending = .none) ∧ (t.wait ≠ none → t.pending ≠ .none) := by
    intro t t1 t2 t3 t4 t5 t6
    refine ⟨⟨t3, ?_, t5, t6⟩, fun _ => t2, fun e => absurd t1 e⟩
    rw [t1]; exact hiff t4
  have hrate : ∀ {v : Waiter} {c i x : Byte}, (v.inInit = true ↔ w.inInit = true) →
      SessionInv (startRate v c i x s).wait (startRate v c i x s) ∧
        ((startRate v c i x s).wait = none → (startRate v c i x s).pending = .none) ∧
        ((startRate v c i x s).wait ≠ none → (startRate v c i x s).pending ≠ .none) := by
    intro v c i x hv
    have hp : (startRate v c i x s).pending = .awaitingAck := by rw [startRate_eq]
    rw [hp, startRate_wait]
    refine ⟨?_, nofun, fun _ => nofun⟩
    exact h.startRate (hv.trans ⟨fun e => ⟨w, rfl, e⟩, fun ⟨u, hu, e⟩ => by cases hu; exact e⟩) c i x
  cases w with
  | waitPending => exact hans hs hp h.1 (hno rfl) h.3 h.4
  | setMessageRate => exact hans hs hp h.1 (hno rfl) h.3 h.4
  | subscribeStatus => exact hans hs hp h.1 (hno rfl) h.3 h.4
  | subscribeTimeutc => exact hans hs hp h.1 (hno rfl) h.3 h.4
  | disableNmea k =>
    unfold resume
    dsimp only
    split
    · rename_i k' _
      exact hrate (v := .disableNmea k') Iff.rfl
    · exact hans hs hp h.1 (hno rfl) h.3 h.4
  | initVersion =>
    unfold resume
    dsimp only
    split
    · exact hans hs hp h.1 (fun e => by cases e) (fun _ => hyes rfl) h.4
    · exact hrate (v := .initNmea .gga) Iff.rfl
  | initNmea k =>
    unfold resume
    dsimp only
    split
    · rename_i k' _
      exact hrate (v := .initNmea k') Iff.rfl
    · exact hans hs hp h.1 (fun e => by cases e) (fun _ => hyes rfl) h.4

/-- What the waiting operation does with its result touches no parser register and no snapshot. -/
theorem resume_keeps (w : Waiter) (r : ResultCode) (s : State) :
    (resume w r s).parser = s.parser ∧ (resume w r s).cfg = s.cfg ∧ (resume w r s).ver = s.ver ∧
      (resume w r s).tu = s.tu ∧ (resume w r s).st = s.st ∧ (resume w r s).rx = s.rx ∧
      (resume w r s).pumps = s.pumps ∧ (resume w r s).obs = s.obs ∧ (resume w r s).policy = s.policy ∧
      (resume w r s).notes = s.notes ∧ (resume w r s).inNotify = s.inNotify ∧
      (resume w r s).obsScript = s.obsScript := by
  have hrate : ∀ (v : Waiter) (c i x : Byte), (startRate v c i x s).parser = s.parser ∧
      (startRate v c i x s).cfg = s.cfg ∧ (startRate v c i x s).ver = s.ver ∧ (startRate v c i x s).tu = s.tu ∧
      (startRate v c i x s).st = s.st ∧ (startRate v c i x s).rx = s.rx ∧ (startRate v c i x s).pumps = s.pumps ∧
      (startRate v c i x s).obs = s.obs ∧ (startRate v c i x s).policy = s.policy ∧
      (startRate v c i x s).notes = s.notes ∧ (startRate v c i x s).inNotify = s.inNotify ∧
      (startRate v c i x s).obsScript = s.obsScript := by
    intro v c i x
    rw [startRate_eq]
    exact ⟨rfl, rfl, rfl, rfl, rfl, rfl, rfl, rfl, rfl, rfl, rfl, rfl⟩
  unfold resume
  split
  · exact ⟨rfl, rfl, rfl, rfl, rfl, rfl, rfl, rfl, rfl, rfl, rfl, rfl⟩
  · exact ⟨rfl, rfl, rfl, rfl, rfl, rfl, rfl, rfl, rfl, rfl, rfl, rfl⟩
  · split
    · exact hrate ..
    · exact ⟨rfl, rfl, rfl, rfl, rfl, rfl, rfl, rfl, rfl, rfl, rfl, rfl⟩
  · exact ⟨rfl, rfl, rfl, rfl, rfl, rfl, rfl, rfl, rfl, rfl, rfl, rfl⟩
  · exact ⟨rfl, rfl, rfl, rfl, rfl, rfl, rfl, rfl, rfl, rfl, rfl, rfl⟩
  · split
    · exact ⟨rfl, rfl, rfl, rfl, rfl, rfl, rfl, rfl, rfl, rfl, rfl, rfl⟩
    · exact hrate ..
  · split
    · exact hrate ..
    · exact ⟨rfl, rfl, rfl, rfl, rfl, rfl, rfl, rfl, rfl, rfl, rfl, rfl⟩

theorem resume_bufferInv {s : State} (h : BufferInv s) (w : Waiter) (r : ResultCode) : BufferInv (resume w r s) := by
  obtain ⟨h1, h2, h3, h4, h5, -⟩ := resume_keeps w r s
  exact h.congr h1 h2 h3 h4 h5

/-- One iteration keeps the invariant. -/
theorem waitIteration_inv {w : Waiter} {s : State} (h : Inv s) (hw : s.wait = some w) : Inv (waitIteration w s) := by
  have hb : BufferInv (pump s) := pump_bufferInv h.buffer
  have hs : SessionInv (some w) (pump s) := by rw [← hw]; exact h.session.pump
  unfold waitIteration
  dsimp only
  split
  · rename_i hp
    obtain ⟨k1, k2, k3⟩ := resume_sessionInv (s := { pump s with wait := none })
      (hs.congr rfl rfl rfl rfl rfl) rfl hp .ok
    exact .of_parts (resume_bufferInv (s := { pump s with wait := none }) (hb.congr rfl rfl rfl rfl rfl) ..) k1 k2 k3
  · rename_i hp
    split
    · obtain ⟨k1, k2, k3⟩ := resume_sessionInv
        (s := State.raise (.timeout w) { (pump s).tick with pending := .none, wait := none })
        (hs.congr rfl rfl rfl rfl rfl) rfl rfl .timeout
      exact .of_parts
        (resume_bufferInv (s := State.raise (.timeout w) { (pump s).tick with pending := .none, wait := none })
          (hb.congr rfl rfl rfl rfl rfl) ..) k1 k2 k3
    · have hwait : (pump s).tick.wait = some w := (pump_frame s).1.wait.trans hw
      refine .of_parts (hb.congr rfl rfl rfl rfl rfl) (by rw [hwait]; exact hs.congr rfl rfl rfl rfl rfl)
        (fun e => ?_) fun _ => hp
      rw [hwait] at e; cases e

theorem drive_inv {n : Nat} {s : State} (h : Inv s) : Inv (drive n s) := by
  induction n generalizing s with
  | zero => exact h
  | succ n ih =>
    rcases hw : s.wait with _ | w
    · rw [drive_done hw]; exact h
    · rw [drive_succ hw]; exact ih (waitIteration_inv h hw)

end Sys2Proof.Machine
end

