-- ==== Sys2Proof/Tests/Slice0.lean ====
section
/-! SUPPORT. The model's own tests: ill-formed terms, words written out from spec/30_encoding.md, vectors of
spec/95_test_vectors.md run for one step, and for each statement with hypotheses a state and operands that meet them. -/

namespace Sys2Proof.Tests

open Sys2Proof Sys2Proof.Machine Sys2Proof.Statement

/-! ### Small states -/

/-- After reset and BIND. -/
def bound : State := { State.reset with bound := true }

/-- `bound` with bytes on RX. -/
def hearing (bytes : List Byte) : State := { bound with rx := bytes }

/-- `bound` with an environment. -/
def waitingFor (pumps : List Stim) : State := { bound with pumps := pumps }

/-- `bound` inside a notification. -/
def notifying : State := { bound with inNotify := true, obs := some 1 }

/-- `bound` with the parser in a state. -/
def parsing (st : PState) (len idx : U16) (bytes : List Byte) : State :=
  { hearing bytes with parser := { Parser.reset with state := st, len := len, idx := idx } }

/-- What a next state shows; nothing of a stop. -/
def seen {α : Type} (f : State → α) : Host.Outcome State Fault Refusal → Option α
  | .next t => some (f t)
  | .fault _ => none
  | .refused _ => none

/-- F-ACK, F-ST6, V-D1, V-D2 of spec/95_test_vectors.md. -/
def fAck : List Byte := [0xB5#8, 0x62#8, 0x05#8, 0x01#8, 0x02#8, 0x00#8, 0x06#8, 0x01#8, 0x0F#8, 0x38#8]
def fNack : List Byte := [0xB5#8, 0x62#8, 0x05#8, 0x00#8, 0x02#8, 0x00#8, 0x06#8, 0x01#8, 0x0E#8, 0x33#8]
def st6Payload : List Byte := [0x01#8, 0x00#8, 0x00#8, 0x00#8, 0x06#8, 0xF2#8]
def d1Payload : List Byte :=
  [0x00#8, 0x70#8, 0x99#8, 0x14#8, 0x19#8, 0x00#8, 0x00#8, 0x00#8, 0xC0#8, 0x1D#8, 0xFE#8, 0xFF#8, 0xEA#8, 0x07#8, 0x0B#8,
   0x0B#8, 0x17#8, 0x04#8, 0x05#8, 0x07#8]
def d2Payload : List Byte :=
  [0x00#8, 0x70#8, 0x99#8, 0x14#8, 0x03#8, 0x0D#8, 0x00#8, 0x00#8, 0x00#8, 0x00#8, 0x00#8, 0x00#8, 0x00#8, 0x00#8, 0x00#8,
   0x00#8]

/-! ### Reset -/

theorem test_reset_memory_wf : Memory.wf State.reset.parser.pbuf = true := by decide

/-! ### Well-formedness: an ill-formed term for each check -/

theorem smoke_policy_refused : ¬ Instr.WellFormed (.setChecksumPolicy 2#8) := by decide

theorem smoke_policy_accepted : Instr.WellFormed (.setChecksumPolicy 0#8) ∧ Instr.WellFormed (.setChecksumPolicy 1#8) := by
  decide

theorem too_long : ¬ payloadFits (List.replicate 65536 0#8) := by
  rw [payloadFits, List.length_replicate]; decide

theorem smoke_long_payload_refused :
    let p := List.replicate 65536 0#8
    ¬ Instr.WellFormed (.sendFrame 0#8 0#8 p) ∧ ¬ Instr.WellFormed (.rxAckAck p 0#8 0#8) ∧
      ¬ Instr.WellFormed (.rxAckNack p 0#8 0#8) ∧ ¬ Instr.WellFormed (.rxMonVer p 0#8 0#8) ∧
      ¬ Instr.WellFormed (.rxNavStatus p 0#8 0#8) ∧ ¬ Instr.WellFormed (.rxNavTimeutc p 0#8 0#8) ∧
      ¬ Instr.WellFormed (.rxUbxOther 2#8 0x15#8 p 0#8 0#8) :=
  ⟨too_long, too_long, too_long, too_long, too_long, too_long, fun h => too_long h.1⟩

theorem longest_fits : payloadFits (List.replicate 65535 0#8) := by
  rw [payloadFits, List.length_replicate]

theorem smoke_longest_payload_accepted : Instr.WellFormed (.sendFrame 0#8 0#8 (List.replicate 65535 0#8)) := longest_fits

theorem smoke_handled_key_refused_as_other : ¬ Instr.WellFormed (.rxUbxOther 0x0A#8 0x04#8 [] 0#8 0#8) := by decide

/-! ### Decoding: one word of every row, written out from R60 to R63, R65, R70 to R72, R77 -/

theorem test_decode_bind : decode .host [.byte 0x01#8] = .ok .bind := by decide
theorem test_decode_attachObserver : decode .host [.byte 0x02#8, .obs 7] = .ok (.attachObserver 7) := by decide
theorem test_decode_detachObserver : decode .host [.byte 0x03#8] = .ok .detachObserver := by decide
theorem test_decode_setChecksumPolicy :
    decode .host [.byte 0x04#8, .byte 0x01#8] = .ok (.setChecksumPolicy 1#8) := by decide
theorem test_decode_initialize : decode .host [.byte 0x10#8] = .ok .initEngine := by decide
theorem test_decode_process : decode .host [.byte 0x11#8] = .ok .process := by decide
theorem test_decode_subscribeStatus :
    decode .host [.byte 0x12#8, .byte 0x05#8] = .ok (.subscribeStatus 5#8) := by decide
theorem test_decode_subscribeTimeutc :
    decode .host [.byte 0x13#8, .byte 0xFF#8] = .ok (.subscribeTimeutc 255#8) := by decide
theorem test_decode_requestVersion : decode .host [.byte 0x20#8] = .ok .requestVersion := by decide
theorem test_decode_requestStatus : decode .host [.byte 0x21#8] = .ok .requestStatus := by decide
theorem test_decode_requestTimeutc : decode .host [.byte 0x22#8] = .ok .requestTimeutc := by decide
theorem test_decode_readVersion : decode .host [.byte 0x30#8] = .ok .readVersion := by decide
theorem test_decode_readTimeutc : decode .host [.byte 0x31#8] = .ok .readTimeutc := by decide
theorem test_decode_readStatus : decode .host [.byte 0x32#8] = .ok .readStatus := by decide
theorem test_decode_readInitialized : decode .host [.byte 0x33#8] = .ok .readInitialized := by decide
theorem test_decode_setMessageRate :
    decode .internal [.byte 0x80#8, .byte 0xF0#8, .byte 0x02#8, .byte 0x03#8] = .ok (.setMessageRate 0xF0#8 2#8 3#8) := by
  decide
theorem test_decode_pollMessage :
    decode .internal [.byte 0x81#8, .byte 0x01#8, .byte 0x03#8] = .ok (.pollMessage 1#8 3#8) := by decide
theorem test_decode_disableDefaultNmea : decode .internal [.byte 0x82#8] = .ok .disableDefaultNmea := by decide
theorem test_decode_waitPending : decode .internal [.byte 0x83#8] = .ok .waitPending := by decide
theorem test_decode_feed : decode .internal [.byte 0x84#8, .count 11] = .ok (.feed 11) := by decide
theorem test_decode_sendFrame :
    decode .internal [.byte 0x85#8, .byte 0x06#8, .byte 0x01#8, .byte 0xF0#8] = .ok (.sendFrame 6#8 1#8 [0xF0#8]) := by
  decide
theorem test_decode_dispatch : decode .internal [.byte 0x86#8] = .ok .dispatch := by decide
theorem test_decode_rxAckAck :
    decode .rx (byteToks fAck) = .ok (.rxAckAck [0x06#8, 0x01#8] 0x0F#8 0x38#8) := by decide
theorem test_decode_rxAckNack :
    decode .rx (byteToks fNack) = .ok (.rxAckNack [0x06#8, 0x01#8] 0x0E#8 0x33#8) := by decide
theorem test_decode_rxMonVer :
    decode .rx (byteToks [0xB5#8, 0x62#8, 0x0A#8, 0x04#8, 0x00#8, 0x00#8, 0x0E#8, 0x34#8]) =
      .ok (.rxMonVer [] 0x0E#8 0x34#8) := by decide
theorem test_decode_rxNavStatus :
    decode .rx (byteToks [0xB5#8, 0x62#8, 0x01#8, 0x03#8, 0x01#8, 0x00#8, 0xAA#8, 0x00#8, 0x01#8]) =
      .ok (.rxNavStatus [0xAA#8] 0x00#8 0x01#8) := by decide
theorem test_decode_rxNavTimeutc :
    decode .rx (byteToks [0xB5#8, 0x62#8, 0x01#8, 0x21#8, 0x00#8, 0x00#8, 0x22#8, 0x67#8]) =
      .ok (.rxNavTimeutc [] 0x22#8 0x67#8) := by decide
theorem test_decode_txCfgMsg :
    decode .tx (byteToks [0xB5#8, 0x62#8, 0x06#8, 0x01#8, 0x03#8, 0x00#8, 0xF0#8, 0x05#8, 0x00#8, 0xFF#8, 0x19#8]) =
      .ok (.txCfgMsg 0xF0#8 0x05#8 0x00#8) := by decide
theorem test_decode_txMonVerPoll : decode .tx (byteToks verPoll) = .ok .txMonVerPoll := by decide
theorem test_decode_txNavStatusPoll : decode .tx (byteToks statusPoll) = .ok .txNavStatusPoll := by decide
theorem test_decode_txNavTimeutcPoll : decode .tx (byteToks timeUtcPoll) = .ok .txNavTimeutcPoll := by decide
theorem test_decode_rxUbxOther :
    decode .rx (byteToks [0xB5#8, 0x62#8, 0x02#8, 0x15#8, 0x03#8, 0x00#8, 0x00#8, 0x00#8, 0x00#8, 0x1A#8, 0x9B#8]) =
      .ok (.rxUbxOther 0x02#8 0x15#8 [0x00#8, 0x00#8, 0x00#8] 0x1A#8 0x9B#8) := by decide

/-- R70: a received CFG-MSG falls under "any other". -/
theorem test_decode_received_cfgMsg :
    decode .rx (byteToks [0xB5#8, 0x62#8, 0x06#8, 0x01#8, 0x00#8, 0x00#8, 0x07#8, 0x1B#8]) =
      .ok (.rxUbxOther 0x06#8 0x01#8 [] 0x07#8 0x1B#8) := by decide

/-- R74: 0x00, a gap, an internal code; an operand above 1. -/
theorem test_decode_illegal :
    decode .host [.byte 0x00#8] = .error (.unlistedOpcode 0x00#8) ∧
      decode .host [.byte 0x05#8] = .error (.unlistedOpcode 0x05#8) ∧
      decode .host [.byte 0x80#8] = .error (.unlistedOpcode 0x80#8) ∧
      decode .host [.byte 0x04#8, .byte 0x02#8] = .error (.illegalOperand 0x04#8 0x02#8) := by decide

/-! ### Vectors of spec/95_test_vectors.md, one step each -/

/-- L2-CK-5: both sums wrap. -/
theorem test_checksum_wraps : checksum 0xFF#8 0xFF#8 1#16 [0xFF#8] = (0xFE#8, 0xF9#8) := by decide

/-- L1-1. -/
theorem test_encode_gga :
    encodeFrame 0x06#8 0x01#8 [0xF0#8, 0x00#8, 0x00#8] =
      [0xB5#8, 0x62#8, 0x06#8, 0x01#8, 0x03#8, 0x00#8, 0xF0#8, 0x00#8, 0x00#8, 0xFA#8, 0x0F#8] := by decide

/-- L2-CD-7, L2-CD-8, L2-CD-10. -/
theorem test_i4_signs :
    signed32 0xFFFFFFFF#32 = -1 ∧ signed32 0x80000000#32 = -2147483648 ∧ signed32 0xFFFE1DC0#32 = -123456 := by decide

/-- L2-SE-1. -/
theorem test_process_unbound :
    seen (fun t => t.responses) (exec .process State.reset) = some [⟨.host, .transportUnbound, .none⟩] := by decide

/-- L2-SE-8. -/
theorem test_bind_reentrant :
    seen (fun t => t.responses) (exec .bind notifying) = some [⟨.observer, .reentrant, .none⟩] := by decide

/-- L2-SE-6. -/
theorem test_internal_code_on_host :
    seen (fun t => t.responses) (step { State.reset with hostQ := [⟨⟨[], 0⟩, [.byte 0x80#8], []⟩] }) =
      some [⟨.host, .illegalCommand, .none⟩] := by decide

/-- L2-SE-9. -/
theorem test_request_version : seen (fun t => t.tx) (exec .requestVersion bound) = some verPoll := by decide

/-- L2-SE-10. -/
theorem test_request_status : seen (fun t => t.tx) (exec .requestStatus bound) = some statusPoll := by decide

/-- L2-SE-11. -/
theorem test_request_timeutc : seen (fun t => t.tx) (exec .requestTimeutc bound) = some timeUtcPoll := by decide

/-- L2-SE-12: 1000, 3000 and 5999 do not expire, 6000 does. -/
theorem test_subscribe_times_out_at_6000 :
    seen (fun t => (t.clk, t.waitT0, t.responses))
      (exec (.subscribeStatus 1#8)
        { bound with clk := 1000, pumps := [⟨[], 0⟩, ⟨[], 2000⟩, ⟨[], 2999⟩, ⟨[], 1⟩, ⟨[], 7⟩] }) =
      some (6000, 1000, [⟨.host, .timeout, .none⟩]) := by decide

/-- F-SUB-ST1. -/
theorem test_subscribe_frame :
    seen (fun t => t.tx) (exec (.subscribeStatus 1#8) bound) =
      some [0xB5#8, 0x62#8, 0x06#8, 0x01#8, 0x03#8, 0x00#8, 0x01#8, 0x03#8, 0x01#8, 0x0F#8, 0x49#8] := by decide

/-- F-SUB-TU1. -/
theorem test_subscribe_timeutc_frame :
    seen (fun t => t.tx) (exec (.subscribeTimeutc 1#8) bound) =
      some [0xB5#8, 0x62#8, 0x06#8, 0x01#8, 0x03#8, 0x00#8, 0x01#8, 0x21#8, 0x01#8, 0x2D#8, 0x85#8] := by decide

/-- L2-SE-13: the pending check wins over the deadline, and a NACK counts as OK. -/
theorem test_nack_at_the_deadline :
    seen (fun t => t.responses) (exec (.subscribeStatus 1#8) (waitingFor [⟨fNack, 5000⟩])) =
      some [⟨.host, .ok, .none⟩] := by decide

/-- L2-SE-14: the clock wraps during the wait, and 4999 ms do not expire. -/
theorem test_clock_wrap :
    seen (fun t => (t.clk % 2 ^ 32, t.responses))
      (exec (.subscribeStatus 0#8)
        { bound with clk := 0xFFFFF000, pumps := [⟨[], 0xFFF⟩, ⟨[], 904⟩, ⟨[], 1⟩] }) =
      some (904, [⟨.host, .timeout, .none⟩]) := by decide

/-- L2-SE-16 and L2-DI-8. -/
theorem test_process_ack :
    seen (fun t => (t.pending, t.notes, t.responses.map Response.code)) (exec .process { hearing fAck with obs := some 1 }) =
      some (.none, [⟨1, 0x05#8, 0x01#8, 2#16, [0x06#8, 0x01#8]⟩], [.ok]) := by decide

/-- L2-DI-3. -/
theorem test_nav_status_six :
    seen (fun t => t.st) (exec (.rxNavStatus st6Payload 0x03#8 0x59#8) { bound with clk := 60 }) =
      some ⟨1#32, 6#8, false, true, false, false, 60⟩ := by decide

/-- L2-DI-7: V-D2. -/
theorem test_nav_status_d2 :
    seen (fun t => t.st) (exec (.rxNavStatus d2Payload 0x41#8 0x12#8) { bound with clk := 300 }) =
      some ⟨345600000#32, 3#8, true, false, true, true, 300⟩ := by decide

/-- L2-DI-4: five bytes are too few. -/
theorem test_nav_status_short :
    seen (fun t => (t.st, t.notes.length))
      (exec (.rxNavStatus [0#8, 0#8, 0#8, 0#8, 0#8] 0x09#8 0x44#8) { bound with obs := some 1, clk := 5 }) =
      some (State.reset.st, 1) := by decide

/-- L2-DI-5: V-D1. -/
theorem test_nav_timeutc_d1 :
    seen (fun t => t.tu) (exec (.rxNavTimeutc d1Payload 0x74#8 0x52#8) { bound with clk := 9 }) =
      some ⟨345600000#32, 25#32, 0xFFFE1DC0#32, 2026#16, 11#8, 11#8, 23#8, 4#8, 5#8, true, true, true, 9⟩ := by decide

/-- L2-DI-2, P_LEN 10: the software string ends at its zero, the hardware string is empty, no slot is there. -/
theorem test_mon_ver_short :
    seen (fun t => t.ver)
      (exec (.rxMonVer [0x53#8, 0x57#8, 0#8, 0#8, 0#8, 0#8, 0#8, 0#8, 0#8, 0#8] 0#8 0#8) bound) =
      some ⟨[0x53#8, 0x57#8], [], notAvailable, notAvailable, notAvailable, notAvailable⟩ := by decide

/-- L2-PS-4: the second B5 is no new header 1. -/
theorem test_header_near_miss :
    seen (fun t => (t.parser.state, t.events)) (exec (.feed 2) (hearing [0xB5#8, 0xB5#8])) =
      some (.waitHeader1, [.resyncHdr2 0xB5#8]) := by decide

/-- L2-PS-6. -/
theorem test_oversize :
    seen (fun t => (t.parser.state, t.events))
      (exec (.feed 6) (hearing [0xB5#8, 0x62#8, 0x01#8, 0x03#8, 0x01#8, 0x01#8])) =
      some (.waitHeader1, [.oversize 257#16]) := by decide

/-- L2-PS-11: F-ST6-BAD under Strict. -/
theorem test_strict_drop :
    seen (fun t => (t.st, t.events)) (exec (.rxNavStatus st6Payload 0x03#8 0x5A#8) { bound with policy := .strict }) =
      some (State.reset.st, [.checksumMismatch 0x01#8 0x03#8]) := by decide

/-- L2-PS-10: F-ST6-BAD under Permissive. -/
theorem test_permissive_pass :
    seen (fun t => (t.st.fix, t.events)) (exec (.rxNavStatus st6Payload 0x03#8 0x5A#8) bound) = some (6#8, []) := by
  decide

/-- P7, second INITIALIZE: t0 = 10000, samples 12000, 14999, 15000. -/
theorem test_initialize_times_out :
    seen (fun t => (t.clk, t.eState, t.responses))
      (exec .initEngine { bound with clk := 10000, pumps := [⟨[], 2000⟩, ⟨[], 2999⟩, ⟨[], 1⟩] }) =
      some (15000, .initializationFailed, [⟨.host, .timeout, .none⟩]) := by decide

/-- L2-SE-15. -/
theorem test_initialize_again :
    seen (fun t => (t.tx, t.responses)) (exec .initEngine { bound with eState := .initialized }) =
      some ([], [⟨.host, .ok, .none⟩]) := by decide

/-- R131's example, its first two frames: the second is sent when the first wait has timed out. -/
theorem test_nmea_second_frame :
    seen (fun t => (t.wait, t.tx.length)) (exec .disableDefaultNmea (waitingFor [⟨[], 5000⟩])) =
      some (some (.disableNmea .gll), 22) := by decide

/-- P8, inside the notification: PROCESS and SUBSCRIBE_STATUS are refused, DETACH_OBSERVER is not. -/
theorem test_observer_commands :
    seen (fun t => (t.responses.map Response.code, t.obs, t.inNotify, t.notes.length))
      (exec .dispatch
        { bound with
          obs := some 1
          obsScript := [[[.byte 0x11#8], [.byte 0x12#8, .byte 0x01#8], [.byte 0x03#8]]] }) =
      some ([.reentrant, .reentrant, .ok], none, false, 1) := by decide

/-! ### Witnesses: a state and operands that meet each statement's hypotheses -/

theorem witness_ResetHasTheResetTableValues : State.reset = State.resetWith .reference := rfl

theorem witness_BindStartsAtAFrameBoundary : State.reset.inNotify = false ∧ notifying.inNotify = true := by decide

theorem witness_ChecksumPolicyTakesOnlyZeroAndOne : 1 < (2#8).toNat ∧ 1 < (255#8).toNat := by decide

theorem witness_RequestsWriteTheirPolls : bound.bound = true ∧ State.reset.bound = false := by decide

theorem witness_AccessorsReturnTheSnapshots :
    ({ bound with eState := .initialized } : State).eState = .initialized ∧ State.reset.eState ≠ .initialized := by decide

theorem witness_BlockingCallsInANotificationAreReentrant : notifying.inNotify = true := by decide

theorem witness_TransportCommandsFailWhileUnbound : State.reset.bound = false ∧ State.reset.inNotify = false := by decide

/-- Both kinds of illegal command, at the ends of their ranges. -/
theorem witness_IllegalHostCommandHasNoEffect :
    let listed : List Byte := [0x01#8, 0x02#8, 0x03#8, 0x04#8, 0x10#8, 0x11#8, 0x12#8, 0x13#8, 0x20#8, 0x21#8, 0x22#8,
      0x30#8, 0x31#8, 0x32#8, 0x33#8]
    let s : State := { State.reset with hostQ := [⟨⟨[1#8], 3⟩, [.byte 0x86#8], [⟨[], 1⟩]⟩] }
    s.wait = none ∧ s.opLatch = none ∧ s.hostQ = [⟨⟨[1#8], 3⟩, [.byte 0x86#8], [⟨[], 1⟩]⟩] ∧ 0x86#8 ∉ listed ∧
      0x00#8 ∉ listed ∧ 0x34#8 ∉ listed ∧ 0xFF#8 ∉ listed ∧ 1 < (2#8).toNat ∧ 1 < (255#8).toNat := by decide

/-- One malformed command of each kind (log 5). -/
theorem witness_IllegalHostCommandHasNoEffect_malformed :
    decode .host [] = .error .noOpcode ∧ decode .host [.obs 1] = .error .noOpcode ∧
      decode .host [.byte 0x01#8, .byte 0#8] = .error (.malformedOperands 0x01#8) ∧
      decode .host [.byte 0x12#8] = .error (.malformedOperands 0x12#8) ∧
      decode .host [.byte 0x12#8, .obs 1] = .error (.malformedOperands 0x12#8) ∧
      decode .host [.byte 0x02#8, .byte 1#8] = .error (.malformedOperands 0x02#8) ∧
      (∀ p : Byte, [Tok.obs 1] ≠ [.byte p]) ∧ (∀ o, [Tok.byte 1#8] ≠ [.obs o]) ∧
      ∀ op operands, [Tok.obs 1] ≠ .byte op :: operands :=
  ⟨rfl, rfl, rfl, rfl, rfl, rfl, nofun, nofun, nofun⟩

/-- One state for each of the four clauses. -/
theorem witness_StepRunsTheDecodedOperation :
    (let s : State := { State.reset with opLatch := some (.internal, [.byte 0x86#8]) };
      s.wait = none ∧ s.opLatch = some (.internal, [.byte 0x86#8]) ∧
        decode .internal [.byte 0x86#8] = .ok .dispatch) ∧
    (let s : State := { State.reset with hostQ := [⟨⟨fAck, 1⟩, [.byte 0x01#8], []⟩] };
      s.wait = none ∧ s.opLatch = none ∧ s.hostQ = [⟨⟨fAck, 1⟩, [.byte 0x01#8], []⟩] ∧
        decode .host [.byte 0x01#8] = .ok .bind) ∧
    (State.reset.wait = none ∧ State.reset.opLatch = none ∧ State.reset.hostQ = []) ∧
    (let s : State := { bound with wait := some .subscribeStatus, pending := .awaitingAck };
      s.wait = some .subscribeStatus ∧ s.parserInBounds = true) := by decide

theorem witness_DecodeUndoesEncode :
    Instr.WellFormed (.setChecksumPolicy 1#8) ∧ Instr.WellFormed (.rxMonVer (List.replicate 65535 0#8) 0#8 0#8) ∧
      Instr.WellFormed (.rxUbxOther 0xFF#8 0xFF#8 [] 0#8 0#8) :=
  ⟨by decide, longest_fits, by decide⟩

theorem witness_EncodeUndoesDecode :
    decode .rx (byteToks fAck) = .ok (.rxAckAck [0x06#8, 0x01#8] 0x0F#8 0x38#8) ∧
      decode .host [.byte 0x04#8, .byte 0x00#8] = .ok (.setChecksumPolicy 0#8) := by decide

theorem witness_HostPortAcceptsOnlyHostCommands :
    Instr.space .dispatch ≠ .host ∧ Instr.space .txMonVerPoll ≠ .host ∧ Instr.space (.rxAckAck [] 0#8 0#8) ≠ .host := by
  decide

theorem witness_EncodedFrameHasTheWireLayout :
    ([] : List Byte).length ≤ 65535 ∧ (List.replicate 65535 0#8).length ≤ 65535 := ⟨by decide, longest_fits⟩

theorem witness_SendersAppendTheirFrame :
    ([] : List Byte).length ≤ 65535 ∧ (List.replicate 65535 0#8).length ≤ 65535 := ⟨by decide, longest_fits⟩

/-- Each of the four clauses, and a byte next to each header constant. -/
theorem witness_HeaderBytesAreMatched :
    (hearing [0xB5#8, 7#8]).rx = [0xB5#8, 7#8] ∧ (hearing [0xB5#8, 7#8]).parser.state = .waitHeader1 ∧
      0xB4#8 ≠ 0xB5#8 ∧ (parsing .waitHeader2 0 0 [0x62#8]).rx = [0x62#8] ∧
      (parsing .waitHeader2 0 0 [0x62#8]).parser.state = .waitHeader2 ∧ 0x63#8 ≠ 0x62#8 := by decide

theorem witness_FieldBytesAreCaptured :
    (parsing .cls 0 0 [0xB5#8]).rx = [0xB5#8] ∧ (parsing .cls 0 0 [0xB5#8]).parser.state = .cls ∧
      (parsing .id 0 0 [0#8]).parser.state = .id ∧ (parsing .lenLow 0 0 [0xFF#8]).parser.state = .lenLow ∧
      (parsing .checksumA 256 256 [0#8]).parser.state = .checksumA ∧
      (parsing .checksumA 256 256 [0#8]).parser.len.toNat ≤ (parsing .checksumA 256 256 [0#8]).cfg.maxPayload := by
  decide

/-- 257 is too long, 256 is the longest payload, 0 is none. -/
theorem witness_LengthIsCheckedAgainstMaxPayload :
    (parsing .lenHigh 1 0 [1#8]).rx = [1#8] ∧ (parsing .lenHigh 1 0 [1#8]).parser.state = .lenHigh ∧
      (257#16 = BitVec.ofNat 16 ((1#8).toNat * 256 + (parsing .lenHigh 1 0 [1#8]).parser.len.toNat % 256) ∧
        (parsing .lenHigh 1 0 [1#8]).cfg.maxPayload < (257#16).toNat) ∧
      (256#16 = BitVec.ofNat 16 ((1#8).toNat * 256 + (parsing .lenHigh 0 0 [1#8]).parser.len.toNat % 256) ∧
        (256#16).toNat ≤ (parsing .lenHigh 0 0 [1#8]).cfg.maxPayload ∧ 256#16 ≠ 0#16) ∧
      (0#16 = BitVec.ofNat 16 ((0#8).toNat * 256 + (parsing .lenHigh 0 0 [0#8]).parser.len.toNat % 256) ∧
        (0#16).toNat ≤ (parsing .lenHigh 0 0 [0#8]).cfg.maxPayload) := by decide

/-- The last payload byte and one before it. -/
theorem witness_PayloadBytesFillTheBufferInOrder :
    let s := parsing .payload 256 255 [9#8]
    let u := parsing .payload 256 0 [9#8]
    s.rx = [9#8] ∧ s.parser.state = .payload ∧ s.parser.idx.toNat < s.parser.len.toNat ∧
      s.parser.len.toNat ≤ s.cfg.maxPayload ∧ Memory.wf s.parser.pbuf = true ∧
      s.parser.idx.toNat + 1 = s.parser.len.toNat ∧ u.parser.idx.toNat < u.parser.len.toNat ∧
      u.parser.idx.toNat + 1 ≠ u.parser.len.toNat := by decide

/-- Permissive; Strict with the right sums (all zero); Strict with wrong ones. -/
theorem witness_LastByteValidatesThenDispatches :
    let s := parsing .checksumB 0 0 [0#8]
    let f : State := { s with rx := [], parser := { s.parser with ckB := 0#8 } }
    let g : State := { s with rx := [], parser := { s.parser with ckB := 1#8 } }
    s.rx = [0#8] ∧ s.parser.state = .checksumB ∧ s.parser.len.toNat ≤ s.cfg.maxPayload ∧ s.policy = .permissive ∧
      checksum f.parser.cls f.parser.id f.parser.len f.payload = (f.parser.ckA, f.parser.ckB) ∧
      ({ s with policy := .strict } : State).policy = .strict ∧
      checksum g.parser.cls g.parser.id g.parser.len g.payload ≠ (g.parser.ckA, g.parser.ckB) := by decide

theorem witness_FeedConsumesExactlyItsCount :
    10 ≤ (hearing fAck).rx.length ∧ 0 ≤ (hearing fAck).rx.length ∧ (hearing fAck).parserInBounds = true := by decide

theorem witness_FeedBeyondTheReadyBytesIsRefused : (hearing fAck).rx.length < 11 ∧ State.reset.rx.length < 1 := by decide

theorem witness_SplitFeedsConsumeAsOne : 4 + 6 ≤ (hearing fAck).rx.length ∧ (hearing fAck).parserInBounds = true := by
  decide

/-- An empty payload and one of MAX_PAYLOAD bytes, with and without an observer. -/
theorem witness_EncodedFrameComesBackThroughTheParser :
    let s : State := { hearing (encodeFrame 2#8 0x15#8 [] ++ [7#8]) with obs := some 1 }
    let p := List.replicate 256 0xB5#8
    s.parser.state = .waitHeader1 ∧ Memory.wf s.parser.pbuf = true ∧ ([] : List Byte).length ≤ s.cfg.maxPayload ∧
      s.rx = encodeFrame 2#8 0x15#8 [] ++ [7#8] ∧ s.obs = some 1 ∧
      (hearing (encodeFrame 2#8 0x15#8 p)).obs = none ∧ p.length ≤ (hearing (encodeFrame 2#8 0x15#8 p)).cfg.maxPayload :=
  ⟨rfl, rfl, by decide, rfl, rfl, rfl, by rw [List.length_replicate]; exact Nat.le_refl _⟩

theorem witness_NoiseBeforeAFrameIsDiscarded :
    (hearing ([0x00#8, 0xFF#8] ++ fAck)).parser.state = .waitHeader1 ∧
      (∀ b ∈ [0x00#8, 0xFF#8], b ≠ 0xB5#8) ∧ (hearing ([0x00#8, 0xFF#8] ++ fAck)).rx = [0x00#8, 0xFF#8] ++ fAck := by
  decide

theorem witness_HeaderTwoNearMissLosesTheFrame :
    (hearing [0xB5#8, 0xB5#8, 0x62#8, 1#8]).parser.state = .waitHeader1 ∧
      (hearing [0xB5#8, 0xB5#8, 0x62#8, 1#8]).rx = [0xB5#8, 0xB5#8, 0x62#8, 1#8] := by decide

/-- MAX_PAYLOAD + 1. -/
theorem witness_OversizeFrameIsDroppedUnread :
    let s := hearing (0xB5#8 :: 0x62#8 :: 1#8 :: 3#8 :: loByte 257#16 :: hiByte 257#16 :: fAck)
    s.parser.state = .waitHeader1 ∧ s.cfg.maxPayload < (257#16).toNat ∧
      s.rx = 0xB5#8 :: 0x62#8 :: 1#8 :: 3#8 :: loByte 257#16 :: hiByte 257#16 :: fAck := by decide

theorem witness_AckNackAndOtherFramesComeIn :
    takesFrame bound 0x05#8 0x01#8 [6#8, 1#8] 0x0F#8 0x38#8 ∧ takesFrame bound 0x05#8 0x00#8 [] 0#8 0#8 ∧
      frameKind 0x02#8 0x15#8 = .other ∧ takesFrame { bound with policy := .strict } 0x02#8 0x15#8 [0#8, 0#8, 0#8] 0x1A#8 0x9B#8 :=
  ⟨⟨rfl, rfl, by decide, .inl rfl⟩, ⟨rfl, rfl, by decide, .inl rfl⟩, by decide, ⟨rfl, rfl, by decide, .inr (by decide)⟩⟩

theorem witness_MonVerSetsTheVersionStrings :
    takesFrame bound 0x0A#8 0x04#8 [] 0x0E#8 0x34#8 ∧ takesFrame bound 0x0A#8 0x04#8 (List.replicate 256 0#8) 0#8 0#8 :=
  ⟨⟨rfl, rfl, by decide, .inl rfl⟩, ⟨rfl, rfl, by rw [List.length_replicate]; exact Nat.le_refl _, .inl rfl⟩⟩

/-- Six payload bytes, and five. -/
theorem witness_NavStatusSetsTheStatusSnapshot :
    takesFrame bound 0x01#8 0x03#8 st6Payload 0x03#8 0x59#8 ∧ 6 ≤ st6Payload.length ∧
      takesFrame bound 0x01#8 0x03#8 (st6Payload.take 5) 0#8 0#8 ∧ (st6Payload.take 5).length < 6 :=
  ⟨⟨rfl, rfl, by decide, .inl rfl⟩, by decide, ⟨rfl, rfl, by decide, .inl rfl⟩, by decide⟩

/-- Twenty payload bytes, and nineteen; both signs. -/
theorem witness_NavTimeutcSetsTheTimeSnapshot :
    takesFrame bound 0x01#8 0x21#8 d1Payload 0x74#8 0x52#8 ∧ 20 ≤ d1Payload.length ∧
      takesFrame bound 0x01#8 0x21#8 (d1Payload.take 19) 0#8 0#8 ∧ (d1Payload.take 19).length < 20 ∧
      (0x7FFFFFFF#32).getLsbD 31 = false ∧ (0x80000000#32).getLsbD 31 = true :=
  ⟨⟨rfl, rfl, by decide, .inl rfl⟩, by decide, ⟨rfl, rfl, by decide, .inl rfl⟩, by decide, by decide, by decide⟩

theorem witness_StrictPolicyDropsACorruptedFrame :
    let s : State := { bound with policy := .strict }
    s.parser.state = .waitHeader1 ∧ Memory.wf s.parser.pbuf = true ∧ st6Payload.length ≤ s.cfg.maxPayload ∧
      s.policy = .strict ∧
      (0x03#8, 0x5A#8) ≠ checksum 0x01#8 0x03#8 (BitVec.ofNat 16 st6Payload.length) st6Payload := by decide

theorem witness_ReceivedRowsFeedTheirBytes :
    (List.replicate 65535 0#8).length ≤ 65535 ∧ (hearing [1#8]).parserInBounds = true ∧
      (parsing .payload 2 1 [1#8]).parserInBounds = true := ⟨longest_fits, by decide, by decide⟩

/-- A frame with `n` payload bytes in the parser registers, all zero. -/
def holding (c i : Byte) (n : Nat) : State :=
  { bound with parser := { Parser.reset with cls := c, id := i, len := BitVec.ofNat 16 n } }

theorem holding_payload (c i : Byte) (n k : Nat) :
    Memory.read (holding c i n).parser.pbuf k = Statement.byteAt (List.replicate n 0#8) k := by
  simp only [holding, Parser.reset, Memory.read, Memory.unlisted, Statement.byteAt, List.getD, List.getElem?_replicate]
  split <;> rfl

/-- Every minimum length met and just missed, and a frame of each kind. -/
theorem witness_DispatchRunsOneHandlerThenNotify :
    (∀ n ∈ [0, 5, 6, 19, 20, 256], (holding 1#8 3#8 n).parser.len.toNat ≤ (holding 1#8 3#8 n).cfg.maxPayload ∧
      (List.replicate n 0#8).length = (holding 1#8 3#8 n).parser.len.toNat) ∧
      (∀ n k, Memory.read (holding 1#8 3#8 n).parser.pbuf k = Statement.byteAt (List.replicate n 0#8) k) ∧
      (holding 5#8 1#8 0).parser.cls = 0x05#8 ∧ (holding 5#8 0#8 0).parser.id = 0x00#8 ∧
      (holding 0x0A#8 4#8 0).parser.cls = 0x0A#8 ∧ (holding 0x0A#8 4#8 0).parser.id = 0x04#8 ∧
      (holding 1#8 3#8 6).parser.cls = 0x01#8 ∧ (holding 1#8 3#8 5).parser.id = 0x03#8 ∧
      (holding 1#8 0x21#8 20).parser.id = 0x21#8 ∧
      frameKind (holding 1#8 4#8 0).parser.cls (holding 1#8 4#8 0).parser.id = .other :=
  ⟨by simp only [List.length_replicate]; decide, holding_payload 1#8 3#8, rfl, rfl, rfl, rfl, rfl, rfl, rfl, rfl⟩

theorem witness_NotifyDeliversOneNotification :
    let s : State := { bound with obs := some 1, obsScript := [[[.byte 0x03#8], [.byte 0x10#8]]] }
    s.parser.len.toNat ≤ s.cfg.maxPayload ∧ frameKind s.parser.cls s.parser.id = .other ∧ s.obs = some 1 ∧
      s.obsScript = [[.byte 0x03#8], [.byte 0x10#8]] :: [] ∧ ({ s with obsScript := [] } : State).obsScript = [] ∧
      bound.obs = none ∧ frameKind bound.parser.cls bound.parser.id = .other := by decide

theorem witness_ObserverCommandsRunAsHostCommands :
    Instr.space (.setChecksumPolicy 1#8) = .host ∧ Instr.WellFormed (.setChecksumPolicy 1#8) ∧
      notifying.inNotify = true := by decide

theorem witness_ProcessFeedsWhatIsReady : hostMayPump (hearing fAck) := ⟨rfl, rfl, rfl⟩

theorem witness_InitializeIsANoOpOnceInitialized :
    let s : State := { bound with eState := .initialized }
    s.inNotify = false ∧ s.bound = true ∧ s.eState = .initialized := by decide

/-- 5000 ms are enough, and one turn of the clock less one is short enough. -/
theorem silent_bounds :
    silentFor (waitingFor [⟨[], 5000⟩]) 5000 [] ∧ silentFor (waitingFor [⟨[], 4294967295⟩]) 4294967295 [] :=
  ⟨⟨rfl, rfl, rfl, by decide, by decide⟩, ⟨rfl, rfl, rfl, by decide, by decide⟩⟩

theorem witness_UnansweredInitializeFails :
    hostMayPump (waitingFor [⟨[], 5000⟩]) ∧ (waitingFor [⟨[], 5000⟩]).eState ≠ .initialized ∧
      silentFor (waitingFor [⟨[], 5000⟩]) 5000 [] := ⟨⟨rfl, rfl, rfl⟩, by decide, silent_bounds.1⟩

/-- A frame that clears pending, as a stimulus. -/
def reply : Stim := ⟨encodeFrame 0x05#8 0x01#8 [6#8, 1#8], 10⟩

theorem reply_isReply : isReply 256 reply := ⟨0x05#8, 0x01#8, [6#8, 1#8], .inl ⟨rfl, rfl⟩, by decide, rfl⟩

/-- The premises about the engine, whatever the environment does. -/
theorem waitingFor_ready (pumps : List Stim) :
    hostMayPump (waitingFor pumps) ∧ (waitingFor pumps).eState ≠ .initialized ∧
      (waitingFor pumps).parser.state = .waitHeader1 ∧ Memory.wf (waitingFor pumps).parser.pbuf = true ∧
      (waitingFor pumps).rx = [] := ⟨⟨rfl, rfl, rfl⟩, by simp [waitingFor, bound, State.reset, State.resetWith], rfl, rfl, rfl⟩

/-- All seven waits answered, and the first alone, the others timing out at both ends of the range. -/
theorem witness_AnsweredInitializeSucceeds :
    let s := waitingFor [reply, reply, reply, reply, reply, reply, reply]
    let u := waitingFor [reply, ⟨[], 5000⟩, ⟨[], 5000⟩, ⟨[], 5001⟩, ⟨[], 6000⟩, ⟨[], 4294967295⟩, ⟨[], 5000⟩]
    (hostMayPump s ∧ s.eState ≠ .initialized ∧ s.parser.state = .waitHeader1 ∧ Memory.wf s.parser.pbuf = true ∧
      s.rx = []) ∧ isReply s.cfg.maxPayload reply ∧ s.pumps = [reply, reply, reply, reply, reply, reply, reply] ∧
      (∀ r ∈ [reply, reply, reply, reply, reply, reply], isReply s.cfg.maxPayload r) ∧
    (hostMayPump u ∧ u.eState ≠ .initialized ∧ u.parser.state = .waitHeader1 ∧ Memory.wf u.parser.pbuf = true ∧
      u.rx = []) ∧ isReply u.cfg.maxPayload reply ∧ u.ticks = [] ∧
      u.pumps = [reply, ⟨[], 5000⟩, ⟨[], 5000⟩, ⟨[], 5001⟩, ⟨[], 6000⟩, ⟨[], 4294967295⟩, ⟨[], 5000⟩] ∧
      ∀ d ∈ [5000, 5000, 5001, 6000, 4294967295, 5000], 5000 ≤ d ∧ d < 2 ^ u.cfg.clockW := by
  refine ⟨waitingFor_ready _, reply_isReply, rfl, fun r hr => ?_, waitingFor_ready _, reply_isReply, rfl, rfl, by decide⟩
  have : r = reply := by simpa using hr
  rw [this]; exact reply_isReply

theorem witness_UnansweredRateRequestTimesOut :
    (waitingFor [⟨[], 5000⟩]).parserInBounds = true ∧ silentFor (waitingFor [⟨[], 5000⟩]) 5000 [] ∧
      (waitingFor [⟨[], 5000⟩]).inNotify = false ∧ (waitingFor [⟨[], 5000⟩]).bound = true :=
  ⟨rfl, silent_bounds.1, rfl, rfl⟩

theorem witness_AnyClearingFrameAnswersARateRequest :
    (waitingFor [reply]).inNotify = false ∧ (waitingFor [reply]).bound = true ∧
      (waitingFor [reply]).parser.state = .waitHeader1 ∧
      Memory.wf (waitingFor [reply]).parser.pbuf = true ∧ (waitingFor [reply]).rx = [] ∧
      (waitingFor [reply]).pumps = [reply] ∧ isReply (waitingFor [reply]).cfg.maxPayload reply ∧
      (waitingFor [reply]).obs = none := ⟨rfl, rfl, rfl, rfl, rfl, rfl, reply_isReply, rfl⟩

theorem witness_UnansweredNmeaPhaseSendsAllSixFrames :
    let s := waitingFor [⟨[], 5000⟩, ⟨[], 5000⟩, ⟨[], 5001⟩, ⟨[], 6000⟩, ⟨[], 4294967295⟩, ⟨[], 5000⟩]
    s.parserInBounds = true ∧ s.rx = [] ∧ s.ticks = [] ∧
      s.pumps = [⟨[], 5000⟩, ⟨[], 5000⟩, ⟨[], 5001⟩, ⟨[], 6000⟩, ⟨[], 4294967295⟩, ⟨[], 5000⟩] ∧
      ∀ d ∈ [5000, 5000, 5001, 6000, 4294967295, 5000], 5000 ≤ d ∧ d < 2 ^ s.cfg.clockW := by decide

theorem witness_WaitPendingReturnsOkOrTimeout :
    (waitingFor [⟨[], 5000⟩]).parserInBounds = true ∧ silentFor (waitingFor [⟨[], 5000⟩]) 5000 [] ∧
      (waitingFor [⟨[], 5000⟩]).pending = .none ∧
      silentFor { waitingFor [⟨[], 5000⟩] with pending := .awaitingVersion } 5000 [] :=
  ⟨rfl, silent_bounds.1, rfl, ⟨rfl, rfl, rfl, by decide, by decide⟩⟩

/-- 4999 ms in all, from a command and in a wait that has gone on for 2000 of them, the clock having wrapped. -/
theorem witness_WaitGoesOnUntilTheDeadline :
    let s := waitingFor [⟨[], 2000⟩, ⟨[], 0⟩, ⟨[], 2999⟩]
    let u : State := { waitingFor [⟨[], 0⟩, ⟨[], 2999⟩] with
      wait := some (.initNmea .vtg), pending := .awaitingAck, waitT0 := 4294967295, clk := 1999 }
    s.parserInBounds = true ∧ quiet s 4999 ∧ s.inNotify = false ∧ s.bound = true ∧ s.eState ≠ .initialized ∧
      ({ s with pending := .awaitingVersion } : State).pending ≠ .none ∧
      u.parserInBounds = true ∧ quiet u 2999 ∧ u.wait = some (.initNmea .vtg) ∧ u.pending ≠ .none ∧
      u.waitT0 < 2 ^ u.cfg.clockW ∧ waited u + 2999 < 5000 :=
  ⟨rfl, ⟨rfl, rfl, by decide, rfl⟩, rfl, rfl, by decide, by decide, rfl, ⟨rfl, rfl, by decide, rfl⟩, rfl, by decide, by decide,
    by decide⟩

/-- 4999 ms into the wait, after a wrap of the clock. -/
theorem witness_StalledClockKeepsWaiting :
    let s : State := { bound with wait := some .initVersion, pending := .awaitingVersion, waitT0 := 4294967295, clk := 4998 }
    s.wait = some .initVersion ∧ s.parserInBounds = true ∧ s.pending ≠ .none ∧ s.rx = [] ∧ s.pumps = [] ∧ s.ticks = [] ∧
      waited s < 5000 ∧ s.waitT0 < 2 ^ s.cfg.clockW := by decide

/-- The second of two pumps reaches the deadline exactly. -/
theorem witness_RateRequestEndsOnceTheDeadlinePasses :
    let s := waitingFor [⟨fAck, 4999⟩, ⟨[1#8], 1⟩]
    hostMayPump s ∧ s.ticks = [] ∧ 2 ≤ s.pumps.length ∧ 5000 ≤ ((s.pumps.take 2).map Stim.clk).sum ∧
      ((s.pumps.take 2).map Stim.clk).sum < 2 ^ s.cfg.clockW :=
  ⟨⟨rfl, rfl, rfl⟩, rfl, by decide, by decide, by decide⟩

/-- An engine in the first wait of INITIALIZE, with the invariant. -/
def inInitialize : State :=
  { waitingFor [⟨[], 5000⟩] with
    eState := .awaitingVersionResponse
    pending := .awaitingVersion
    wait := some .initVersion }

theorem inInitialize_inv : Inv inInitialize where
  pbufCanonical := rfl
  pbufInside := nofun
  inBounds := rfl
  notNotifying := rfl
  idlePending := nofun
  waitPending := fun _ => nofun
  awaiting := ⟨fun _ => ⟨.initVersion, rfl, rfl⟩, fun _ => rfl⟩
  started := fun _ => rfl
  waitT0Width := by decide
  tuTimeWidth := by decide
  stTimeWidth := by decide
  swString := ⟨by decide, nofun⟩
  hwString := ⟨by decide, nofun⟩
  ext0String := ⟨by decide, nofun⟩
  ext1String := ⟨by decide, nofun⟩
  ext2String := ⟨by decide, nofun⟩
  ext3String := ⟨by decide, nofun⟩

theorem witness_EveryStepKeepsTheInvariant : Inv inInitialize ∧ ∃ t, step inInitialize = .next t :=
  ⟨inInitialize_inv, _, rfl⟩

theorem witness_HostDrivenStepsNeverStop : Inv inInitialize ∧ inInitialize.opLatch = none := ⟨inInitialize_inv, rfl⟩

theorem witness_BoundNeverClears : (∃ t, step inInitialize = .next t) ∧ inInitialize.bound = true := ⟨⟨_, rfl⟩, rfl⟩

theorem initialized_inv : Inv { bound with eState := .initialized } where
  pbufCanonical := rfl
  pbufInside := nofun
  inBounds := rfl
  notNotifying := rfl
  idlePending := fun _ => rfl
  waitPending := fun h => absurd rfl h
  awaiting := ⟨nofun, fun ⟨_, h, _⟩ => nomatch h⟩
  started := fun _ => rfl
  waitT0Width := by decide
  tuTimeWidth := by decide
  stTimeWidth := by decide
  swString := ⟨by decide, nofun⟩
  hwString := ⟨by decide, nofun⟩
  ext0String := ⟨by decide, nofun⟩
  ext1String := ⟨by decide, nofun⟩
  ext2String := ⟨by decide, nofun⟩
  ext3String := ⟨by decide, nofun⟩

/-- An initialized engine; and one that stays Uninitialized over a step. -/
theorem witness_InitializedForGood :
    Inv { bound with eState := .initialized } ∧
      step { bound with eState := .initialized } = .next { bound with eState := .initialized } ∧
      step bound = .next bound ∧ bound.eState = .uninitialized := ⟨initialized_inv, rfl, rfl, rfl⟩

theorem witness_OnlyInitializeWritesEState :
    let s : State := { bound with wait := some .subscribeStatus, pending := .awaitingAck }
    (Instr.bind ≠ .initEngine ∧ ∃ t, exec .bind bound = .next t) ∧
      s.wait = some .subscribeStatus ∧ Waiter.subscribeStatus.inInit = false ∧ ∃ t, step s = .next t :=
  ⟨⟨by decide, _, rfl⟩, rfl, rfl, _, rfl⟩

theorem witness_PlainCommandsLeaveParserAndSnapshots :
    Instr.space .readStatus = .host ∧ Instr.readStatus ≠ .initEngine ∧ Instr.readStatus ≠ .process ∧
      (∀ r, Instr.readStatus ≠ .subscribeStatus r) ∧ (∀ r, Instr.readStatus ≠ .subscribeTimeutc r) ∧
      ∃ t, exec .readStatus bound = .next t := ⟨rfl, by decide, by decide, nofun, nofun, _, rfl⟩

theorem witness_OutputsOnlyGrow : ∃ t, step inInitialize = .next t := ⟨_, rfl⟩

theorem witness_EventHistoryIsNeverRead : ∃ t, step inInitialize = .next t := ⟨_, rfl⟩

/-- An engine in the wait of `w`, `ms` after its start, which the clock's wrap lies in. -/
def midWait (w : Waiter) (ms : Nat) (pumps : List Stim) : State :=
  { waitingFor pumps with wait := some w, pending := .awaitingAck, waitT0 := 4294967295, clk := 4294967295 + ms }

/-- A first pump that answers, one that comes at the deadline, one that comes before it, and an empty store, each with a Now() before
which time passes. -/
theorem witness_EveryWaitFollowsTheLoopOfWaitPending :
    let s : State := { bound with ticks := [3, 7] }
    let u (ms : Nat) (pumps : List Stim) : State := { midWait (.disableNmea .gsv) ms pumps with ticks := [1] }
    s.parserInBounds = true ∧ s.inNotify = false ∧ s.bound = true ∧ s.eState ≠ .initialized ∧
      (u 0 []).wait = some (.disableNmea .gsv) ∧ (u 0 []).parserInBounds = true ∧ (u 0 []).waitT0 < 2 ^ (u 0 []).cfg.clockW ∧
      (pump (u 0 [reply])).pending = .none ∧
      (pump (u 4000 [⟨[], 999⟩])).pending ≠ .none ∧ waited (sampled (pump (u 4000 [⟨[], 999⟩]))) = 5000 ∧
      waited (sampled (pump (u 4000 [⟨[], 998⟩]))) = 4999 ∧ (u 0 []).pumps = [] := by decide

/-- 4999 ms of silence, then a reply however late, or the last millisecond. -/
theorem witness_AReplyOrTheDeadlineEndsAWaitInProgress :
    let s := midWait .initVersion 2000 [⟨[], 2000⟩, ⟨[], 999⟩, reply]
    let u := midWait .initVersion 2000 [⟨[], 2000⟩, ⟨[], 999⟩, ⟨[], 1⟩]
    s.wait = some .initVersion ∧ s.pending ≠ .none ∧ s.waitT0 < 2 ^ s.cfg.clockW ∧ s.rx = [] ∧ s.ticks = [] ∧
      (∀ x ∈ [⟨[], 2000⟩, (⟨[], 999⟩ : Stim)], x.rx = []) ∧
      waited s + ([⟨[], 2000⟩, (⟨[], 999⟩ : Stim)].map Stim.clk).sum < 5000 ∧
      s.parser.state = .waitHeader1 ∧ Memory.wf s.parser.pbuf = true ∧ u.parserInBounds = true ∧
      waited u + ([⟨[], 2000⟩, (⟨[], 999⟩ : Stim)].map Stim.clk).sum + 1 = 5000 := by decide

/-- The reply of that witness. -/
theorem witness_AReplyOrTheDeadlineEndsAWaitInProgress_reply :
    isReply (midWait .initVersion 2000 [⟨[], 2000⟩, ⟨[], 999⟩, reply]).cfg.maxPayload reply ∧
      (midWait .initVersion 2000 [⟨[], 2000⟩, ⟨[], 999⟩, reply]).pumps = [⟨[], 2000⟩, ⟨[], 999⟩] ++ reply :: [] :=
  ⟨reply_isReply, rfl⟩

end Sys2Proof.Tests
end

section
/-! PROOFS. The shape of a step (spec/00_scope.md R13, spec/60_exceptions.md R166): what it does with a latched operation, with a
host command and with nothing to do; and that no host command stops it. -/

namespace Sys2Proof.Machine

/-! ### What a step does between operations -/

/-- Tokens that decode are run. -/
theorem runDecoded_of_ok {space : Space} {toks : List Tok} {i : Instr} (h : decode space toks = .ok i) (s : State) :
    runDecoded space toks s = exec i s := by
  simp only [runDecoded, h]

/-- The latch is fetched first (log 6). -/
theorem step_of_latch {space : Space} {toks : List Tok} {s : State} (hw : s.wait = none)
    (hl : s.opLatch = some (space, toks)) : step s = runDecoded space toks { s with opLatch := none } := by
  simp only [step, hw, fetch, hl]

/-- With an empty latch the next host command is fetched, after its stimulus (log 19). -/
theorem step_of_hostItem {item : HostItem} {rest : List HostItem} {s : State} (hw : s.wait = none)
    (hl : s.opLatch = none) (hq : s.hostQ = item :: rest) :
    step s = runDecoded .host item.command (State.stimulate item.stim { s with hostQ := rest, pumps := item.waits }) := by
  simp only [step, hw, fetch, hl, hq]

/-- With nothing to do the engine keeps all state (spec/60_exceptions.md R166). -/
theorem step_of_idle {s : State} (hw : s.wait = none) (hl : s.opLatch = none) (hq : s.hostQ = []) :
    step s = .next s := by
  simp only [step, hw, fetch, hl, hq]

/-- Settles O10: a step with a wait goes on with it (`step_of_wait`); without one it runs what the latch, else the HOST port,
holds, and otherwise idles. -/
theorem stepRunsTheDecodedOperation : Obligations.StepRunsTheDecodedOperation := by
  refine ⟨fun s space toks i hw hl hd => ?_, fun s stim toks waits rest i hw hl hq hd => ?_,
    fun s hw hl hq => step_of_idle hw hl hq, fun s w hw hb => step_of_wait hw hb⟩
  · rw [step_of_latch hw hl, runDecoded_of_ok hd]
  · rw [step_of_hostItem hw hl hq, runDecoded_of_ok hd]; rfl

/-! ### Host commands never stop the engine -/

/-- The operands of a host opcode make a host command. -/
theorem decodeHostOperands_space {op : HostOp} {operands : List Tok} {i : Instr}
    (h : decodeHostOperands op operands = .ok i) : i.space = .host := by
  cases op with
  | attachObserver => obtain ⟨o, -, rfl⟩ := oneObserver_ok h; rfl
  | setChecksumPolicy =>
    obtain ⟨p, -, hp⟩ := oneByte_ok h
    split at hp
    · cases hp; rfl
    · cases hp
  | subscribeStatus => obtain ⟨r, -, hr⟩ := oneByte_ok h; cases hr; rfl
  | subscribeTimeutc => obtain ⟨r, -, hr⟩ := oneByte_ok h; cases hr; rfl
  | _ => obtain ⟨-, rfl⟩ := noOperands_ok h; rfl

/-- The HOST port carries host commands only (spec/30_encoding.md R74). -/
theorem decodeHost_space {toks : List Tok} {i : Instr} (h : decodeHost toks = .ok i) : i.space = .host := by
  unfold decodeHost at h
  split at h
  · split at h
    · exact decodeHostOperands_space h
    · cases h
  · cases h

/-- Acceptance stops no command whose rule goes on. -/
theorem accept_total {op : HostOp} {run : State → Host.Outcome State Fault Refusal} {s : State}
    (h : ∃ t, run s = .next t) : ∃ t, accept op run s = .next t := by
  cases hr : refusedAtAcceptance op s with
  | some t => exact ⟨t, accept_of_some hr run⟩
  | none => rwa [accept_of_none hr run]

/-- A command that pumps goes on under R20's bound. -/
theorem accept_guardPbuf_total {op : HostOp} {run : State → State} {s : State} (hb : s.parserInBounds = true) :
    ∃ t, accept op (fun s => guardPbuf s.parserInBounds (run s)) s = .next t :=
  accept_total ⟨run s, guardPbuf_next.mpr ⟨hb, rfl⟩⟩

/-- INITIALIZE goes on, whether it is already initialized or has to run its waits (spec/43_session.md R118). -/
theorem execInitEngine_total {s : State} (hb : s.parserInBounds = true) : ∃ t, execInitEngine s = .next t := by
  refine accept_total ?_
  by_cases hi : s.eState = .initialized
  · exact ⟨s.answer .ok .none, if_pos hi⟩
  · exact ⟨runWait (startInit s), (if_neg hi).trans (guardPbuf_next.mpr ⟨hb, rfl⟩)⟩

/-- Every host command is total under R20's bound: eleven go on in every state, and the four that pump need the bound. -/
theorem exec_host_total {i : Instr} {s : State} (hi : i.space = .host) (hb : s.parserInBounds = true) :
    ∃ t, exec i s = .next t := by
  cases i with
  | initEngine => exact execInitEngine_total hb
  | process => simp only [exec, execProcess]; exact accept_guardPbuf_total hb
  | subscribeStatus r => simp only [exec, execSubscribeStatus]; exact accept_guardPbuf_total hb
  | subscribeTimeutc r => simp only [exec, execSubscribeTimeutc]; exact accept_guardPbuf_total hb
  | bind | attachObserver | detachObserver | setChecksumPolicy | requestVersion | requestStatus | requestTimeutc
  | readVersion | readTimeutc | readStatus | readInitialized => exact ⟨_, rfl⟩
  | _ => cases hi

/-- Whatever tokens stand on the HOST port, running them goes on: those that do not decode are ILLEGAL_COMMAND (R154). -/
theorem runDecoded_host_total (toks : List Tok) {s : State} (hb : s.parserInBounds = true) :
    ∃ t, runDecoded .host toks s = .next t := by
  cases hd : decode .host toks with
  | ok i => rw [runDecoded_of_ok hd]; exact exec_host_total (decodeHost_space hd) hb
  | error e => exact ⟨illegalCommand toks s, by simp only [runDecoded, hd, undecodable]⟩

/-- Settles O52: of the invariant only R20's bound is needed, and the stimulus of a host command leaves it. -/
theorem hostDrivenStepsNeverStop : Obligations.HostDrivenStepsNeverStop := by
  intro s hInv hl
  have hb := hInv.inBounds
  unfold SafeStep
  cases hw : s.wait with
  | some w => exact ⟨runWait s, step_of_wait hw hb⟩
  | none =>
    cases hq : s.hostQ with
    | nil => exact ⟨s, step_of_idle hw hl hq⟩
    | cons item rest => rw [step_of_hostItem hw hl hq]; exact runDecoded_host_total item.command hb

end Sys2Proof.Machine
end

section
/-! PROOFS. What a step can do to the session registers (spec/10_state.md R20, R25, R27, R33, spec/43_session.md R133, R134), said
once: a frame for what enters no wait (`NoWaitFrame`), the shapes of an instruction's and of a step's answer (`ExecShape`,
`StepShape`), and from them that a step keeps the invariant, E_BOUND and E_STATE. -/

namespace Sys2Proof.Machine

/-! ### Reset -/

/-- Settles O1: `State.resetWith` writes the reset table out field by field, and no PBUF offset is listed. -/
theorem resetHasTheResetTableValues : Obligations.ResetHasTheResetTableValues := by
  rintro cfg s rfl
  exact ⟨rfl, rfl, rfl, rfl, rfl, rfl, rfl, rfl, rfl, rfl, rfl, rfl, rfl, rfl, fun _ => rfl, rfl, rfl, rfl⟩

/-! ### The frame of what enters no wait -/

/-- What an operation that enters no wait leaves of the session registers, and that it keeps the buffer's part of the invariant.
BIND may set E_BOUND, a frame may clear E_PENDING, and Notify ends with E_IN_NOTIFY 0. -/
structure NoWaitFrame (s t : State) : Prop where
  cfg : t.cfg = s.cfg
  eState : t.eState = s.eState
  bound : s.bound = true → t.bound = true
  waitT0 : t.waitT0 = s.waitT0
  wait : t.wait = s.wait
  inNotify : t.inNotify = s.inNotify ∨ t.inNotify = false
  pending : t.pending = s.pending ∨ t.pending = .none
  buffer : BufferInv s → BufferInv t

namespace NoWaitFrame

theorem trans {s t u : State} (h : NoWaitFrame s t) (k : NoWaitFrame t u) : NoWaitFrame s u where
  cfg := k.cfg.trans h.cfg
  eState := k.eState.trans h.eState
  bound := fun hb => k.bound (h.bound hb)
  waitT0 := k.waitT0.trans h.waitT0
  wait := k.wait.trans h.wait
  inNotify := by
    rcases k.inNotify with e | e
    · rw [e]; exact h.inNotify
    · exact .inr e
  pending := by
    rcases k.pending with e | e
    · rw [e]; exact h.pending
    · exact .inr e
  buffer := fun hb => k.buffer (h.buffer hb)

/-- What the observer may do touches neither the session registers nor the buffer (R113). -/
theorem of_observer {s t : State} (h : ObserverFrame s t) : NoWaitFrame s t where
  cfg := h.cfg
  eState := h.eState
  bound := fun hb => h.bound.trans hb
  waitT0 := h.waitT0
  wait := h.wait
  inNotify := .inl h.inNotify
  pending := .inl h.pending
  buffer := fun hb => hb.congr h.parser h.cfg h.ver h.tu h.st

/-- Running the parser and the handlers, when the buffer's part of the invariant is kept. -/
theorem of_pump {s t : State} (h : PumpFrame s t) (hb : BufferInv s → BufferInv t) : NoWaitFrame s t where
  cfg := h.cfg
  eState := h.eState
  bound := fun e => h.bound.trans e
  waitT0 := h.waitT0
  wait := h.wait
  inNotify := h.inNotify
  pending := h.pending
  buffer := hb

/-- The ports' fields and the clock are free to change. -/
theorem setPorts (s : State) (rx tx : List Byte) (pumps : List Stim) (clk : Nat) (hostQ : List HostItem)
    (opLatch : Option (Space × List Tok)) :
    NoWaitFrame s { s with rx := rx, tx := tx, pumps := pumps, clk := clk, hostQ := hostQ, opLatch := opLatch } :=
  ⟨rfl, rfl, id, rfl, rfl, .inl rfl, .inl rfl, fun hb => hb.congr rfl rfl rfl rfl rfl⟩

theorem refl (s : State) : NoWaitFrame s s := of_observer (.refl s)

theorem answerTo (who : Issuer) (c : ResultCode) (d : ReadData) (s : State) : NoWaitFrame s (s.answerTo who c d) :=
  ⟨rfl, rfl, id, rfl, rfl, .inl rfl, .inl rfl, fun hb => hb.congr rfl rfl rfl rfl rfl⟩

theorem sendFrame (c i : Byte) (payload : List Byte) (s : State) : NoWaitFrame s (sendFrame c i payload s) := by
  rw [sendFrame_eq]
  exact setPorts s s.rx _ s.pumps s.clk s.hostQ s.opLatch

theorem feed (n : Nat) (s : State) : NoWaitFrame s (feed n s) := of_pump (feed_frame n s).1 feed_bufferInv

theorem pump (s : State) : NoWaitFrame s (pump s) :=
  (setPorts s s.rxArrive.rx s.tx s.rxArrive.pumps s.rxArrive.clk s.hostQ s.opLatch).trans
    (feed s.rxArrive.rx.length s.rxArrive)

theorem receiveFrame (cls id : Byte) (payload : List Byte) (ckA ckB : Byte) (s : State) :
    NoWaitFrame s (receiveFrame cls id payload ckA ckB s) :=
  (setPorts s (wireFrame cls id payload ckA ckB ++ s.rx) s.tx s.pumps s.clk s.hostQ s.opLatch).trans (feed ..)

theorem dispatchFrame (s : State) : NoWaitFrame s (dispatchFrame s) :=
  of_pump (dispatchFrame_frame s).1 dispatchFrame_bufferInv

/-- BIND sets E_BOUND and puts the parser where R20 asks for nothing (R114). -/
theorem bind (s : State) : NoWaitFrame s (bind s) where
  cfg := rfl
  eState := rfl
  bound := fun _ => rfl
  waitT0 := rfl
  wait := rfl
  inNotify := .inl rfl
  pending := .inl rfl
  buffer := fun hb =>
    (hb.setParser (p := { s.parser with state := .waitHeader1, idx := 0#16 }) rfl rfl).congr rfl rfl rfl rfl rfl

/-- A command that fails a check of acceptance (R111). -/
theorem refused {op : HostOp} {s t : State} (h : refusedAtAcceptance op s = some t) : NoWaitFrame s t := by
  have hacc : acceptThen op id s = t := acceptThen_of_some h id
  rw [← hacc]
  exact of_observer (.acceptThen (.refl s))

/-- BIND, its acceptance included. -/
theorem commandBind (s : State) : NoWaitFrame s (commandBind s) := by
  cases hr : refusedAtAcceptance .bind s with
  | some t => rw [Machine.commandBind, acceptThen_of_some hr]; exact refused hr
  | none => rw [Machine.commandBind, acceptThen_of_none hr]; exact bind s

/-- Between operations it keeps the whole invariant: nothing is pending there, and nothing becomes pending. -/
theorem inv {s t : State} (h : NoWaitFrame s t) (hs : Inv s) (hw : s.wait = none) : Inv t := by
  have hwt : t.wait = none := h.wait.trans hw
  have hpt : t.pending = .none := h.pending.elim (·.trans (hs.idlePending hw)) id
  have hsession : SessionInv t.wait t := by
    rw [h.wait]
    refine ⟨h.inNotify.elim (·.trans hs.notNotifying) id, ?_, ?_, ?_⟩
    · rw [h.eState]; exact hs.awaiting
    · rw [h.eState]; exact fun e => h.bound (hs.started e)
    · rw [h.waitT0, h.cfg]; exact hs.waitT0Width
  exact .of_parts (h.buffer hs.buffer) hsession (fun _ => hpt) fun e => absurd hwt e

end NoWaitFrame

/-! ### What an instruction can do -/

/-- What an instruction that answers a next state did: it entered no wait, or it ran a wait that it started. Only INITIALIZE starts
a wait of its own, bound and not yet initialized (R112, R118). -/
inductive ExecShape : Instr → State → State → Prop
  | noWait {i : Instr} {s t : State} (h : NoWaitFrame s t) : ExecShape i s t
  | rate {i : Instr} {s : State} {w : Waiter} (hw : w.inInit = false) (c k r : Byte) :
    ExecShape i s (runWait (startRate w c k r s))
  | waitPending {i : Instr} {s : State} : ExecShape i s (runWait (startWait .waitPending s))
  | init {s : State} (hb : s.bound = true) (hs : s.eState ≠ .initialized) :
    ExecShape .initEngine s (runWait (startInit s))

/-- A command that answers was refused by acceptance, or its rule ran after the transport check (R111, R112). -/
theorem accept_next {op : HostOp} {run : State → Host.Outcome State Fault Refusal} {s t : State}
    (h : accept op run s = .next t) :
    NoWaitFrame s t ∨ (needsTransport op = true → s.bound = true) ∧ run s = .next t := by
  rcases refusedAtAcceptance_cases op s with hr | hr | ⟨hr, -, hb⟩
  · rw [accept_of_some hr] at h; cases h; exact .inl (.refused hr)
  · rw [accept_of_some hr] at h; cases h; exact .inl (.refused hr)
  · rw [accept_of_none hr] at h; exact .inr ⟨hb, h⟩

/-- SUBSCRIBE_STATUS and SUBSCRIBE_TIMEUTC (R120, R121). -/
theorem accept_rate_shape {i : Instr} {op : HostOp} {w : Waiter} (hw : w.inInit = false) {c k r : Byte} {s t : State}
    (h : accept op (fun s => guardPbuf s.parserInBounds (runWait (startRate w c k r s))) s = .next t) :
    ExecShape i s t := by
  rcases accept_next h with hf | ⟨-, hrun⟩
  · exact .noWait hf
  · obtain ⟨-, rfl⟩ := guardPbuf_next.mp hrun
    exact .rate hw c k r

/-- INITIALIZE (R118). -/
theorem execInitEngine_shape {s t : State} (h : execInitEngine s = .next t) : ExecShape .initEngine s t := by
  rcases accept_next h with hf | ⟨hb, hrun⟩
  · exact .noWait hf
  · split at hrun
    · cases hrun; exact .noWait (.answerTo ..)
    · rename_i hs
      obtain ⟨-, rfl⟩ := guardPbuf_next.mp hrun
      exact .init (hb rfl) hs

/-- PROCESS (R119). -/
theorem execProcess_noWait {s t : State} (h : execProcess s = .next t) : NoWaitFrame s t := by
  rcases accept_next h with hf | ⟨-, hrun⟩
  · exact hf
  · obtain ⟨-, rfl⟩ := guardPbuf_next.mp hrun
    exact (NoWaitFrame.pump s).trans (.answerTo ..)

/-- FEED, when it has the bytes it reads (R87). -/
theorem execFeed_noWait {n : Nat} {s t : State} (h : execFeed n s = .next t) : NoWaitFrame s t := by
  unfold execFeed at h
  split at h
  · obtain ⟨-, rfl⟩ := guardPbuf_next.mp h
    exact .feed n s
  · cases h

/-- SEND_FRAME, when a length field can say its payload (spec/42_codec.md R103). -/
theorem execSendFrame_noWait {c k : Byte} {p : List Byte} {s t : State} (h : execSendFrame c k p s = .next t) :
    NoWaitFrame s t := by
  unfold execSendFrame at h
  split at h
  · cases h; exact .sendFrame c k p s
  · cases h

/-- DISPATCH (spec/44_dispatch.md R135). -/
theorem execDispatch_noWait {s t : State} (h : execDispatch s = .next t) : NoWaitFrame s t := by
  obtain ⟨-, rfl⟩ := guardPbuf_next.mp h
  exact .dispatchFrame s

/-- A received frame, whatever its key (spec/30_encoding.md R70). -/
theorem receive_noWait {cls id : Byte} {p : List Byte} {ckA ckB : Byte} {s t : State}
    (h : receive cls id p ckA ckB s = .next t) : NoWaitFrame s t := by
  unfold receive at h
  split at h
  · obtain ⟨-, rfl⟩ := guardPbuf_next.mp h
    exact .receiveFrame cls id p ckA ckB s
  · cases h

/-- Every instruction, row by row of the opcode table. -/
theorem exec_shape {i : Instr} {s t : State} (h : exec i s = .next t) : ExecShape i s t := by
  cases i with
  | bind => cases h; exact .noWait (.commandBind s)
  | attachObserver o => cases h; exact .noWait (.of_observer (commandAttachObserver_frame o s))
  | detachObserver => cases h; exact .noWait (.of_observer (commandDetachObserver_frame s))
  | setChecksumPolicy p => cases h; exact .noWait (.of_observer (commandSetChecksumPolicy_frame p s))
  | initEngine => exact execInitEngine_shape h
  | process => exact .noWait (execProcess_noWait h)
  | subscribeStatus r => exact accept_rate_shape (w := .subscribeStatus) rfl h
  | subscribeTimeutc r => exact accept_rate_shape (w := .subscribeTimeutc) rfl h
  | requestVersion => cases h; exact .noWait (.of_observer (commandRequest_frame ..))
  | requestStatus => cases h; exact .noWait (.of_observer (commandRequest_frame ..))
  | requestTimeutc => cases h; exact .noWait (.of_observer (commandRequest_frame ..))
  | readVersion => cases h; exact .noWait (.of_observer (commandReadVersion_frame s))
  | readTimeutc => cases h; exact .noWait (.of_observer (commandReadTimeutc_frame s))
  | readStatus => cases h; exact .noWait (.of_observer (commandReadStatus_frame s))
  | readInitialized => cases h; exact .noWait (.of_observer (commandReadInitialized_frame s))
  | setMessageRate c k r => obtain ⟨-, rfl⟩ := guardPbuf_next.mp h; exact .rate (w := .setMessageRate) rfl c k r
  | pollMessage c k => cases h; exact .noWait ((NoWaitFrame.sendFrame c k [] s).trans (.answerTo ..))
  | disableDefaultNmea =>
    obtain ⟨-, rfl⟩ := guardPbuf_next.mp h
    exact .rate (w := .disableNmea .gga) rfl 0xF0#8 Nmea.gga.id 0x00#8
  | waitPending => obtain ⟨-, rfl⟩ := guardPbuf_next.mp h; exact .waitPending
  | feed n => exact .noWait (execFeed_noWait h)
  | sendFrame c k p => exact .noWait (execSendFrame_noWait h)
  | dispatch => exact .noWait (execDispatch_noWait h)
  | rxAckAck p a b => exact .noWait (receive_noWait h)
  | rxAckNack p a b => exact .noWait (receive_noWait h)
  | rxMonVer p a b => exact .noWait (receive_noWait h)
  | rxNavStatus p a b => exact .noWait (receive_noWait h)
  | rxNavTimeutc p a b => exact .noWait (receive_noWait h)
  | txCfgMsg c k r => cases h; exact .noWait (.sendFrame ..)
  | txMonVerPoll => cases h; exact .noWait (.sendFrame ..)
  | txNavStatusPoll => cases h; exact .noWait (.sendFrame ..)
  | txNavTimeutcPoll => cases h; exact .noWait (.sendFrame ..)
  | rxUbxOther c k p a b => exact .noWait (receive_noWait h)

/-! ### What a step can do -/

/-- What a step that answers a next state did: it went on with a wait, it ran no instruction, or it ran one in the state that
the fetch left. -/
inductive StepShape : State → State → Prop
  | wait {s : State} {w : Waiter} (hw : s.wait = some w) : StepShape s (runWait s)
  | noInstr {s t : State} (hw : s.wait = none) (h : NoWaitFrame s t) : StepShape s t
  | exec {i : Instr} {s u t : State} (hw : s.wait = none) (hf : NoWaitFrame s u) (h : ExecShape i u t) : StepShape s t

/-- The fetch takes an operation off its port, and a host command's stimulus acts (log 6, log 19). -/
theorem fetch_noWait {s u : State} {space : Space} {toks : List Tok} (h : fetch s = some (space, toks, u)) :
    NoWaitFrame s u := by
  unfold fetch at h
  split at h
  · cases h; exact .setPorts s s.rx s.tx s.pumps s.clk s.hostQ none
  · split at h
    · rename_i item rest hq
      cases h; exact .setPorts s (s.rx ++ item.stim.rx) s.tx item.waits (s.clk + item.stim.clk) rest s.opLatch
    · cases h

/-- Tokens that encode no operation (R154). -/
theorem undecodable_noWait {space : Space} {toks : List Tok} {s t : State} (h : undecodable space toks s = .next t) :
    NoWaitFrame s t := by
  cases space with
  | host => cases h; exact .of_observer (.raise_answer ..)
  | internal | rx | tx => cases h

theorem step_shape {s t : State} (h : step s = .next t) : StepShape s t := by
  unfold step at h
  split at h
  · rename_i w hw
    obtain ⟨-, rfl⟩ := guardPbuf_next.mp h
    exact .wait hw
  · rename_i hw
    split at h
    · rename_i space toks u hu
      have hf := fetch_noWait hu
      unfold runDecoded at h
      split at h
      · exact .exec hw hf (exec_shape h)
      · exact .noInstr hw (hf.trans (undecodable_noWait h))
    · cases h; exact .noInstr hw (.refl s)

/-! ### The invariant -/

/-- Between operations E_STATE is not AwaitingVersionResponse (R134). -/
theorem Inv.not_awaiting {s : State} (h : Inv s) (hw : s.wait = none) : s.eState ≠ .awaitingVersionResponse := by
  intro he
  obtain ⟨w, hsome, -⟩ := h.awaiting.mp he
  rw [hw] at hsome
  cases hsome

/-- A rate request sets E_PENDING as it enters its wait (R129). -/
theorem startRate_inv {s : State} (h : Inv s) (hw : s.wait = none) {w : Waiter} (hi : w.inInit = false) (c k r : Byte) :
    Inv (startRate w c k r s) := by
  have hsession : SessionInv (some w) (startRate w c k r s) := by
    refine h.session.startRate ⟨fun e => ?_, fun ⟨v, hv, _⟩ => ?_⟩ c k r
    · rw [hi] at e; cases e
    · rw [hw] at hv; cases hv
  rw [startRate_eq] at hsession ⊢
  exact .of_parts (h.buffer.congr rfl rfl rfl rfl rfl) hsession nofun fun _ => nofun

/-- INITIALIZE sets E_STATE and E_PENDING as it enters its first wait (R118). -/
theorem startInit_inv {s : State} (h : Inv s) (hb : s.bound = true) : Inv (startInit s) := by
  have hsession : SessionInv (some .initVersion) (startInit s) := by
    rw [startInit_eq]
    exact ⟨h.notNotifying, ⟨fun _ => ⟨_, rfl, rfl⟩, fun _ => rfl⟩, fun _ => hb, Nat.mod_lt _ (Nat.two_pow_pos _)⟩
  rw [startInit_eq] at hsession ⊢
  exact .of_parts (h.buffer.congr rfl rfl rfl rfl rfl) hsession nofun fun _ => nofun

/-- What follows a wait meets the invariant, when the wait left its two parts and nothing pending (R133). -/
theorem resume_inv {w : Waiter} {s : State} (hb : BufferInv s) (hs : SessionInv (some w) s) (hp : s.pending = .none)
    (r : ResultCode) : Inv (resume w r { s with wait := none }) := by
  obtain ⟨hsession, hidle, hwaits⟩ :=
    resume_sessionInv (s := { s with wait := none }) (hs.congr rfl rfl rfl rfl rfl) rfl hp r
  exact .of_parts (resume_bufferInv (s := { s with wait := none }) (hb.congr rfl rfl rfl rfl rfl) w r) hsession hidle hwaits

/-- No frame makes E_PENDING non-None (spec/44_dispatch.md R137 to R139). -/
theorem pump_pending_none {s : State} (h : s.pending = .none) : (pump s).pending = .none :=
  (NoWaitFrame.pump s).pending.elim (·.trans h) id

/-- WAIT_PENDING with nothing pending returns in its first iteration (R132). -/
theorem runWait_waitPending {s : State} (h : s.pending = .none) :
    runWait (startWait .waitPending s) =
      resume .waitPending .ok { pump (startWait .waitPending s) with wait := none } := by
  have hp : (pump (startWait .waitPending s)).pending = .none := pump_pending_none h
  rw [runWait, drive_succ (w := .waitPending) rfl, waitIteration_cleared hp]
  exact drive_done rfl

/-- So it keeps the invariant, though between its start and its return nothing is pending inside a wait. -/
theorem runWait_waitPending_inv {s : State} (h : Inv s) (hw : s.wait = none) :
    Inv (runWait (startWait .waitPending s)) := by
  have hpend := h.idlePending hw
  have hstart : SessionInv (some .waitPending) (startWait .waitPending s) :=
    ⟨h.notNotifying, ⟨fun he => absurd he (h.not_awaiting hw), fun ⟨_, hv, hi⟩ => by cases hv; cases hi⟩, h.started,
      now_lt s.tick⟩
  have hbuffer : BufferInv (startWait .waitPending s) := h.buffer.congr rfl rfl rfl rfl rfl
  rw [runWait_waitPending hpend]
  exact resume_inv (pump_bufferInv hbuffer) hstart.pump (pump_pending_none hpend) .ok

/-- Every instruction keeps the invariant when it runs between operations. -/
theorem ExecShape.inv {i : Instr} {s t : State} (h : ExecShape i s t) (hs : Inv s) (hw : s.wait = none) : Inv t := by
  cases h with
  | noWait hf => exact hf.inv hs hw
  | rate hi c k r => exact drive_inv (startRate_inv hs hw hi c k r)
  | waitPending => exact runWait_waitPending_inv hs hw
  | init hb _ => exact drive_inv (startInit_inv hs hb)

/-- Settles O51: a wait keeps the invariant iteration by iteration (`drive_inv`), and every instruction keeps it by its shape. -/
theorem everyStepKeepsTheInvariant : Obligations.EveryStepKeepsTheInvariant := by
  intro s t hs hstep
  cases step_shape hstep with
  | wait _ => exact drive_inv hs
  | noInstr hw hf => exact hf.inv hs hw
  | exec hw hf he => exact he.inv (hf.inv hs hw) (hf.wait.trans hw)

/-! ### E_BOUND -/

theorem ExecShape.bound {i : Instr} {s t : State} (h : ExecShape i s t) (hb : s.bound = true) : t.bound = true := by
  cases h with
  | noWait hf => exact hf.bound hb
  | rate _ c k r => exact ((SessionFrame.startRate ..).trans (.runWait _)).bound.trans hb
  | waitPending => exact ((SessionFrame.startWait ..).trans (.runWait _)).bound.trans hb
  | init _ _ => exact ((SessionFrame.startInit s).trans (.runWait _)).bound.trans hb

/-- Settles O53: waits leave E_BOUND, and what enters none can only set it. -/
theorem boundNeverClears : Obligations.BoundNeverClears := by
  intro s t hstep hb
  cases step_shape hstep with
  | wait _ => exact (SessionFrame.runWait s).bound.trans hb
  | noInstr _ hf => exact hf.bound hb
  | exec _ hf he => exact he.bound (hf.bound hb)

/-! ### E_STATE -/

/-- The run of a wait that is none of INITIALIZE's leaves E_STATE. -/
theorem runWait_eState {s : State} {w : Waiter} (hw : s.wait = some w) (hi : w.inInit = false) :
    (runWait s).eState = s.eState :=
  (drive_eState fun v hv => by rw [hw] at hv; cases hv; exact hi).1

/-- What follows a wait writes no Uninitialized into E_STATE: INITIALIZE ends Initialized or InitializationFailed (R118). -/
theorem resume_eState_ne_uninitialized {w : Waiter} {r : ResultCode} {s : State} (h : s.eState ≠ .uninitialized) :
    (resume w r s).eState ≠ .uninitialized := by
  cases w with
  | waitPending | setMessageRate | subscribeStatus | subscribeTimeutc => exact h
  | disableNmea k =>
    unfold resume
    dsimp only
    split
    · rw [startNmea, startRate_eState]; exact h
    · exact h
  | initVersion =>
    unfold resume
    dsimp only
    split
    · exact nofun
    · rw [startNmea, startRate_eState]; exact h
  | initNmea k =>
    unfold resume
    dsimp only
    split
    · rw [startNmea, startRate_eState]; exact h
    · exact nofun

theorem waitIteration_eState_ne_uninitialized {w : Waiter} {s : State} (h : s.eState ≠ .uninitialized) :
    (waitIteration w s).eState ≠ .uninitialized := by
  have hp : (pump s).eState ≠ .uninitialized := by rw [(NoWaitFrame.pump s).eState]; exact h
  unfold waitIteration
  dsimp only
  split
  · exact resume_eState_ne_uninitialized (s := { pump s with wait := none }) hp
  · split
    · exact resume_eState_ne_uninitialized
        (s := State.raise (.timeout w) { (pump s).tick with pending := .none, wait := none }) hp
    · exact hp

theorem drive_eState_ne_uninitialized {n : Nat} {s : State} (h : s.eState ≠ .uninitialized) :
    (drive n s).eState ≠ .uninitialized := by
  induction n generalizing s with
  | zero => exact h
  | succ n ih =>
    cases hw : s.wait with
    | none => rw [drive_done hw]; exact h
    | some w => rw [drive_succ hw]; exact ih (waitIteration_eState_ne_uninitialized h)

/-- An instruction leaves E_STATE, or it is an INITIALIZE that started its waits: then the engine was not initialized, and it has
left Uninitialized. -/
theorem ExecShape.eState {i : Instr} {s t : State} (h : ExecShape i s t) :
    t.eState = s.eState ∨ i = .initEngine ∧ s.eState ≠ .initialized ∧ t.eState ≠ .uninitialized := by
  cases h with
  | noWait hf => exact .inl hf.eState
  | rate hi c k r => exact .inl ((runWait_eState (startRate_wait ..) hi).trans (startRate_eState ..))
  | waitPending => exact .inl (runWait_eState (s := startWait .waitPending s) rfl rfl)
  | init _ hs => exact .inr ⟨rfl, hs, drive_eState_ne_uninitialized (by rw [startInit_eq]; exact nofun)⟩

/-- Settles O55: an instruction by its shape, and a wait that is none of INITIALIZE's by `drive_eState`. -/
theorem onlyInitializeWritesEState : Obligations.OnlyInitializeWritesEState := by
  refine ⟨fun i s t hne he => (exec_shape he).eState.resolve_right fun h => hne h.1, fun s t w hw hi hstep => ?_⟩
  cases step_shape hstep with
  | wait _ => exact runWait_eState hw hi
  | noInstr hnone _ => rw [hw] at hnone; cases hnone
  | exec hnone _ _ => rw [hw] at hnone; cases hnone

/-- Settles O54: an initialized engine is in none of INITIALIZE's waits, so a wait leaves E_STATE, and INITIALIZE answers at once;
and neither a wait nor INITIALIZE writes Uninitialized. -/
theorem initializedForGood : Obligations.InitializedForGood := by
  intro s t hs hstep
  cases step_shape hstep with
  | wait hw =>
    rename_i w
    refine ⟨fun he => ?_, fun hu => not_not.mp fun hne => drive_eState_ne_uninitialized hne hu⟩
    have hi : w.inInit = false := by
      cases hw' : w.inInit with
      | false => rfl
      | true => have := hs.awaiting.mpr ⟨w, hw, hw'⟩; rw [he] at this; cases this
    rw [runWait_eState hw hi, he]
  | noInstr _ hf => rw [hf.eState]; exact ⟨id, id⟩
  | exec _ hf he =>
    rw [← hf.eState]
    rcases he.eState with e | ⟨-, hne, hne'⟩
    · rw [e]; exact ⟨id, id⟩
    · exact ⟨fun e => absurd e hne, fun e => absurd e hne'⟩

end Sys2Proof.Machine
end

section
/-! PROOFS. TX, the notifications, the results and the event history only grow, the parameters stay and real time never runs backwards
(spec/20_memory.md R42, R54, spec/60_exceptions.md R161, spec/70_reset_and_hazards.md R182): one relation (`OutputsGrow`) that every
frame of the model's operations gives, and from it every instruction and every step. -/

namespace Sys2Proof.Machine

/-! ### The relation -/

/-- `t` is later than `s` as seen from outside: nothing written, delivered, returned or recorded is taken back. -/
structure OutputsGrow (s t : State) : Prop where
  tx : s.tx <+: t.tx
  notes : s.notes <+: t.notes
  responses : s.responses <+: t.responses
  events : s.events <+: t.events
  cfg : t.cfg = s.cfg
  clk : s.clk ≤ t.clk

namespace OutputsGrow

theorem refl (s : State) : OutputsGrow s s :=
  ⟨List.prefix_rfl, List.prefix_rfl, List.prefix_rfl, List.prefix_rfl, rfl, le_rfl⟩

theorem trans {s t u : State} (h : OutputsGrow s t) (k : OutputsGrow t u) : OutputsGrow s u where
  tx := h.tx.trans k.tx
  notes := h.notes.trans k.notes
  responses := h.responses.trans k.responses
  events := h.events.trans k.events
  cfg := k.cfg.trans h.cfg
  clk := h.clk.trans k.clk

/-- The observer delivers no notification of its own and takes no time (R113). -/
theorem of_observer {s t : State} (h : ObserverFrame s t) : OutputsGrow s t :=
  ⟨h.tx, h.notes ▸ List.prefix_rfl, h.responses, h.events, h.cfg, h.clk.ge⟩

theorem of_pump {s t : State} (h : PumpFrame s t) : OutputsGrow s t :=
  ⟨h.tx, h.notes, h.responses, h.events, h.cfg, h.clk⟩

theorem of_session {s t : State} (h : SessionFrame s t) : OutputsGrow s t :=
  ⟨h.tx, h.notes, h.responses, h.events, h.cfg, h.clk⟩

theorem answerTo (who : Issuer) (c : ResultCode) (d : ReadData) (s : State) : OutputsGrow s (s.answerTo who c d) :=
  of_session (.answerTo ..)

theorem sendFrame (c i : Byte) (payload : List Byte) (s : State) : OutputsGrow s (sendFrame c i payload s) := by
  rw [sendFrame_eq]
  exact { refl s with tx := List.prefix_append .. }

/-- The bytes of a received frame come in on RX and the parser consumes them (log 7). -/
theorem receiveFrame (cls id : Byte) (payload : List Byte) (ckA ckB : Byte) (s : State) :
    OutputsGrow s (receiveFrame cls id payload ckA ckB s) :=
  of_pump ((PumpFrame.setRx s _).trans (feed_frame ..).1)

theorem bind (s : State) : OutputsGrow s (bind s) :=
  { refl s with responses := List.prefix_append .. }

/-- A command that fails a check of acceptance raises one event and returns one result (R111). -/
theorem refused {op : HostOp} {s t : State} (h : refusedAtAcceptance op s = some t) : OutputsGrow s t := by
  have hacc : acceptThen op id s = t := acceptThen_of_some h id
  rw [← hacc]
  exact of_observer (.acceptThen (.refl s))

theorem commandBind (s : State) : OutputsGrow s (commandBind s) := by
  cases hr : refusedAtAcceptance .bind s with
  | some t => rw [Machine.commandBind, acceptThen_of_some hr]; exact refused hr
  | none => rw [Machine.commandBind, acceptThen_of_none hr]; exact bind s

/-- A command through acceptance: it is refused, or its rule has run. -/
theorem accept {op : HostOp} {run : State → Host.Outcome State Fault Refusal} {s t : State}
    (h : Machine.accept op run s = .next t) (hrun : run s = .next t → OutputsGrow s t) : OutputsGrow s t := by
  cases hr : refusedAtAcceptance op s with
  | some u => rw [accept_of_some hr] at h; cases h; exact refused hr
  | none => rw [accept_of_none hr] at h; exact hrun h

/-- An operation behind R20's bound: when it goes on, it has run. -/
theorem guardPbuf {b : Bool} {s t u : State} (h : Machine.guardPbuf b u = .next t) (hu : OutputsGrow s u) : OutputsGrow s t := by
  obtain ⟨-, rfl⟩ := guardPbuf_next.mp h
  exact hu

/-- A command that pumps: it is refused, or its rule has run in bounds. -/
theorem acceptGuard {op : HostOp} {run : State → State} {s t : State}
    (h : Machine.accept op (fun s => Machine.guardPbuf s.parserInBounds (run s)) s = .next t)
    (hrun : OutputsGrow s (run s)) : OutputsGrow s t :=
  accept h fun hg => guardPbuf hg hrun

/-- A rate request runs its wait (R129). -/
theorem runWait_startRate (w : Waiter) (c i r : Byte) (s : State) : OutputsGrow s (runWait (startRate w c i r s)) :=
  of_session ((SessionFrame.startRate ..).trans (.runWait _))

end OutputsGrow

/-! ### Instructions -/

/-- INITIALIZE answers at once or runs its waits (R118). -/
theorem execInitEngine_outputsGrow {s t : State} (h : execInitEngine s = .next t) : OutputsGrow s t := by
  refine .accept h fun hrun => ?_
  split at hrun
  · cases hrun; exact .answerTo ..
  · exact .guardPbuf hrun (.of_session ((SessionFrame.startInit s).trans (.runWait _)))

/-- PROCESS pumps once (R119). -/
theorem execProcess_outputsGrow {s t : State} (h : execProcess s = .next t) : OutputsGrow s t :=
  .acceptGuard h (.of_session ((SessionFrame.pump s).trans (.answer ..)))

/-- SUBSCRIBE_STATUS is a rate request (R120). -/
theorem execSubscribeStatus_outputsGrow {r : Byte} {s t : State} (h : execSubscribeStatus r s = .next t) :
    OutputsGrow s t :=
  .acceptGuard h (.runWait_startRate ..)

/-- SUBSCRIBE_TIMEUTC is a rate request (R121). -/
theorem execSubscribeTimeutc_outputsGrow {r : Byte} {s t : State} (h : execSubscribeTimeutc r s = .next t) :
    OutputsGrow s t :=
  .acceptGuard h (.runWait_startRate ..)

/-- FEED that goes on has the bytes it reads (R87). -/
theorem execFeed_outputsGrow {n : Nat} {s t : State} (h : execFeed n s = .next t) : OutputsGrow s t := by
  unfold execFeed at h
  split at h
  · exact .guardPbuf h (.of_pump (feed_frame n s).1)
  · cases h

/-- SEND_FRAME that goes on has written its frame (spec/42_codec.md R103). -/
theorem execSendFrame_outputsGrow {c k : Byte} {p : List Byte} {s t : State} (h : execSendFrame c k p s = .next t) :
    OutputsGrow s t := by
  unfold execSendFrame at h
  split at h
  · cases h; exact .sendFrame c k p s
  · cases h

/-- A received frame, whatever its key (spec/30_encoding.md R70). -/
theorem receive_outputsGrow {cls id : Byte} {p : List Byte} {ckA ckB : Byte} {s t : State}
    (h : receive cls id p ckA ckB s = .next t) : OutputsGrow s t := by
  unfold receive at h
  split at h
  · exact .guardPbuf h (.receiveFrame cls id p ckA ckB s)
  · cases h

/-- Every instruction, row by row of the opcode table. -/
theorem exec_outputsGrow {i : Instr} {s t : State} (h : exec i s = .next t) : OutputsGrow s t := by
  cases i with
  | bind => cases h; exact .commandBind s
  | attachObserver o => cases h; exact .of_observer (commandAttachObserver_frame o s)
  | detachObserver => cases h; exact .of_observer (commandDetachObserver_frame s)
  | setChecksumPolicy p => cases h; exact .of_observer (commandSetChecksumPolicy_frame p s)
  | initEngine => exact execInitEngine_outputsGrow h
  | process => exact execProcess_outputsGrow h
  | subscribeStatus r => exact execSubscribeStatus_outputsGrow h
  | subscribeTimeutc r => exact execSubscribeTimeutc_outputsGrow h
  | requestVersion | requestStatus | requestTimeutc => cases h; exact .of_observer (commandRequest_frame ..)
  | readVersion => cases h; exact .of_observer (commandReadVersion_frame s)
  | readTimeutc => cases h; exact .of_observer (commandReadTimeutc_frame s)
  | readStatus => cases h; exact .of_observer (commandReadStatus_frame s)
  | readInitialized => cases h; exact .of_observer (commandReadInitialized_frame s)
  | setMessageRate c k r => exact .guardPbuf h (.runWait_startRate ..)
  | pollMessage c k => cases h; exact (OutputsGrow.sendFrame c k [] s).trans (.answerTo ..)
  | disableDefaultNmea => exact .guardPbuf h (.runWait_startRate ..)
  | waitPending => exact .guardPbuf h (.of_session ((SessionFrame.startWait ..).trans (.runWait _)))
  | feed n => exact execFeed_outputsGrow h
  | sendFrame c k p => exact execSendFrame_outputsGrow h
  | dispatch => exact .guardPbuf h (.of_pump (dispatchFrame_frame s).1)
  | rxAckAck | rxAckNack | rxMonVer | rxNavStatus | rxNavTimeutc | rxUbxOther => exact receive_outputsGrow h
  | txCfgMsg | txMonVerPoll | txNavStatusPoll | txNavTimeutcPoll => cases h; exact .sendFrame ..

/-! ### Steps -/

/-- The fetch writes to no output port, and time passes only before a host command (log 6, log 19). -/
theorem fetch_outputsGrow {s u : State} {space : Space} {toks : List Tok} (h : fetch s = some (space, toks, u)) :
    OutputsGrow s u := by
  unfold fetch at h
  split at h
  · cases h; exact { OutputsGrow.refl s with }
  · split at h
    · cases h; exact { OutputsGrow.refl s with clk := Nat.le_add_right .. }
    · cases h

/-- What the fetch found runs, or it is ILLEGAL_COMMAND (R154). -/
theorem runDecoded_outputsGrow {space : Space} {toks : List Tok} {s t : State} (h : runDecoded space toks s = .next t) :
    OutputsGrow s t := by
  unfold runDecoded at h
  split at h
  · exact exec_outputsGrow h
  · cases space with
    | host => cases h; exact .of_observer (.raise_answer ..)
    | internal | rx | tx => cases h

/-- Settles O57: a wait by its frame (`SessionFrame.runWait`), and otherwise the fetch and then the instruction it found. -/
theorem outputsOnlyGrow : Obligations.OutputsOnlyGrow := by
  intro s t hstep
  have h : OutputsGrow s t := by
    unfold step at hstep
    split at hstep
    · exact .guardPbuf hstep (.of_session (.runWait s))
    · split at hstep
      · rename_i hu
        exact (fetch_outputsGrow hu).trans (runDecoded_outputsGrow hstep)
      · cases hstep; exact .refl s
  exact ⟨h.tx, h.notes, h.responses, h.events, h.cfg, h.clk⟩

end Sys2Proof.Machine
end

section
/-! PROOFS. The encoding (spec/30_encoding.md R60, R65, R71, R74): the wire frame read offset by offset; and what the HOST port does
not decode, opcode by opcode, with the ILLEGAL_COMMAND that answers it (spec/60_exceptions.md R154). -/

namespace Sys2Proof.Machine

/-! ### The wire layout -/

/-- The length field's first byte (R60: little-endian). -/
theorem loByte_ofNat (n : Nat) : loByte (BitVec.ofNat 16 n) = BitVec.ofNat 8 (n % 256) := by
  unfold loByte
  apply BitVec.eq_of_toNat_eq
  rw [BitVec.extractLsb'_toNat, BitVec.toNat_ofNat, BitVec.toNat_ofNat, Nat.shiftRight_zero]
  omega

/-- The length field's second byte. -/
theorem hiByte_ofNat (n : Nat) : hiByte (BitVec.ofNat 16 n) = BitVec.ofNat 8 (n / 256) := by
  unfold hiByte
  apply BitVec.eq_of_toNat_eq
  rw [BitVec.extractLsb'_toNat, BitVec.toNat_ofNat, BitVec.toNat_ofNat, Nat.shiftRight_eq_div_pow]
  omega

/-- From offset 6 on a frame is its payload and the two checksum bytes. -/
theorem wireFrame_getElem?_add_six (cls id : Byte) (payload : List Byte) (ckA ckB : Byte) (k : Nat) :
    (wireFrame cls id payload ckA ckB)[6 + k]? = (payload ++ [ckA, ckB])[k]? := by
  rw [← List.getElem?_drop]; rfl

/-- Settles O16: the header and the length bytes stand at fixed offsets, and the rest is read behind them
(`wireFrame_getElem?_add_six`). No clause needs the bound on the length. -/
theorem encodedFrameHasTheWireLayout : Obligations.EncodedFrameHasTheWireLayout := by
  intro c i p _ f ck
  have hbehind : ∀ k, f[6 + k]? = (p ++ [ck.1, ck.2])[k]? := wireFrame_getElem?_add_six c i p ck.1 ck.2
  refine ⟨(encodeFrame_length c i p).trans (Nat.add_comm ..), rfl, rfl, rfl, rfl, congrArg some (loByte_ofNat _),
    congrArg some (hiByte_ofNat _), fun k hk => ?payload, ?ckA, ?ckB⟩
  case payload => rw [hbehind, List.getElem?_append_left hk]
  case ckA => rw [hbehind]; simp
  case ckB => rw [show 7 + p.length = 6 + (p.length + 1) by omega, hbehind]; simp

end Sys2Proof.Machine

namespace Sys2Proof

open Machine

/-! ### Opcodes and operands on the HOST port -/

/-- The host commands that take no operand (R65). -/
def HostOp.withoutOperands : List HostOp :=
  [.bind, .detachObserver, .initEngine, .process, .requestVersion, .requestStatus, .requestTimeutc, .readVersion,
    .readTimeutc, .readStatus, .readInitialized]

/-- The host commands that take one operand byte (R65). -/
def HostOp.withOneByte : List HostOp := [.setChecksumPolicy, .subscribeStatus, .subscribeTimeutc]

/-- An opcode that R71 does not list is no host command's. -/
theorem HostOp.ofOpcode_eq_none {b : Byte} (h : b ∉ HostOp.all.map HostOp.opcode) : HostOp.ofOpcode b = none := by
  refine List.find?_eq_none.mpr fun op hop he => h ?_
  exact List.mem_map.mpr ⟨op, hop, eq_of_beq he⟩

/-- The byte a frame begins with is no opcode. -/
theorem HostOp.ofOpcode_hdr1 : HostOp.ofOpcode hdr1 = none := by decide

theorem decodeHost_unlisted {b : Byte} (h : HostOp.ofOpcode b = none) (operands : List Tok) :
    decodeHost (.byte b :: operands) = .error (.unlistedOpcode b) := by
  simp only [decodeHost, h]

theorem decodeHost_opcode (op : HostOp) (operands : List Tok) :
    decodeHost (.byte op.opcode :: operands) = decodeHostOperands op operands := by
  simp only [decodeHost, HostOp.ofOpcode_opcode]

/-- Only a byte is an opcode. -/
theorem decodeHost_noOpcode {command : List Tok} (h : ∀ op operands, command ≠ .byte op :: operands) :
    decodeHost command = .error .noOpcode := by
  match command with
  | [] | .obs _ :: _ | .count _ :: _ => rfl
  | .byte op :: operands => exact absurd rfl (h op operands)

theorem oneByte_malformed {operands : List Tok} (h : ∀ p : Byte, operands ≠ [.byte p]) (code : Byte)
    (mk : Byte → Except DecodeError Instr) : oneByte code mk operands = .error (.malformedOperands code) := by
  unfold oneByte
  split
  · exact absurd rfl (h _)
  · rfl

theorem oneObserver_malformed {operands : List Tok} (h : ∀ o, operands ≠ [.obs o]) (code : Byte)
    (mk : ObserverId → Instr) : oneObserver code mk operands = .error (.malformedOperands code) := by
  unfold oneObserver
  split
  · exact absurd rfl (h _)
  · rfl

/-- A superfluous operand (log 5). -/
theorem decodeHost_superfluous {op : HostOp} (hop : op ∈ HostOp.withoutOperands) (t : Tok) (extra : List Tok) :
    decodeHost (.byte op.opcode :: t :: extra) = .error (.malformedOperands op.opcode) := by
  rw [decodeHost_opcode]
  cases op with
  | attachObserver | setChecksumPolicy | subscribeStatus | subscribeTimeutc => exact absurd hop (by decide)
  | _ => rfl

/-- Anything but one operand byte where R65 asks for one (log 5). -/
theorem decodeHost_notOneByte {op : HostOp} (hop : op ∈ HostOp.withOneByte) {operands : List Tok}
    (h : ∀ p : Byte, operands ≠ [.byte p]) :
    decodeHost (.byte op.opcode :: operands) = .error (.malformedOperands op.opcode) := by
  rw [decodeHost_opcode]
  cases op with
  | setChecksumPolicy | subscribeStatus | subscribeTimeutc => exact oneByte_malformed h ..
  | _ => exact absurd hop (by decide)

/-- ATTACH_OBSERVER without its ObserverId (log 5). -/
theorem decodeHost_notOneObserver {operands : List Tok} (h : ∀ o, operands ≠ [.obs o]) :
    decodeHost (.byte HostOp.attachObserver.opcode :: operands) =
      .error (.malformedOperands HostOp.attachObserver.opcode) := by
  rw [decodeHost_opcode]
  exact oneObserver_malformed h ..

/-- SET_CHECKSUM_POLICY with an operand above 1 (R74). -/
theorem decodeHost_policyAboveOne {p : Byte} (h : 1 < p.toNat) :
    decodeHost [.byte HostOp.setChecksumPolicy.opcode, .byte p] =
      .error (.illegalOperand HostOp.setChecksumPolicy.opcode p) := by
  have hp : ¬(p = 0#8 ∨ p = 1#8) := by rintro (rfl | rfl) <;> simp at h
  rw [decodeHost_opcode]
  exact if_neg hp

/-! ### What is no host command -/

/-- An internal operation begins with its code and a frame with 0xB5, and R71 lists none of these (R74). -/
theorem encode_head_unlisted {i : Instr} (h : i.space ≠ .host) :
    ∃ b operands, encode i = .byte b :: operands ∧ HostOp.ofOpcode b = none := by
  cases i with
  | setMessageRate | pollMessage | disableDefaultNmea | waitPending | feed | sendFrame | dispatch =>
    exact ⟨_, _, rfl, by decide⟩
  | rxAckAck | rxAckNack | rxMonVer | rxNavStatus | rxNavTimeutc | rxUbxOther | txCfgMsg | txMonVerPoll | txNavStatusPoll
  | txNavTimeutcPoll => exact ⟨_, _, rfl, HostOp.ofOpcode_hdr1⟩
  | _ => exact absurd rfl h

/-- Settles O14: the HOST port looks at the first token only (`encode_head_unlisted`). -/
theorem hostPortAcceptsOnlyHostCommands : Obligations.HostPortAcceptsOnlyHostCommands := by
  intro i hi
  obtain ⟨b, operands, he, hb⟩ := encode_head_unlisted hi
  exact ⟨b, by rw [he, decode_host, decodeHost_unlisted hb]⟩

end Sys2Proof

namespace Sys2Proof.Machine

/-! ### ILLEGAL_COMMAND -/

/-- ILLEGAL_COMMAND is one event and one result (spec/60_exceptions.md R154). -/
theorem illegalCommand_eq (command : List Tok) (s : State) :
    illegalCommand command s = Statement.refusedWith (.illegalCommand command) .illegalCommand s := rfl

/-- A host command that does not decode, on the HOST port. -/
theorem runDecoded_host_of_error {command : List Tok} {e : DecodeError} (h : decode .host command = .error e)
    (s : State) : runDecoded .host command s = .next (illegalCommand command s) := by
  simp only [runDecoded, h, undecodable]

/-- A host command that does not decode, from the observer. -/
theorem observerCommand_of_error {command : List Tok} {e : DecodeError} (h : decode .host command = .error e)
    (s : State) : observerCommand s command = illegalCommand command s := by
  simp only [observerCommand, h]

/-- A step whose next host command does not decode takes it with its stimulus and is ILLEGAL_COMMAND (log 2, log 19). -/
theorem step_of_undecodable {s : State} {item : HostItem} {rest : List HostItem} (hw : s.wait = none)
    (hl : s.opLatch = none) (hq : s.hostQ = item :: rest) (hd : ∃ e, decode .host item.command = .error e) :
    step s = .next (illegalCommand item.command
      (State.stimulate item.stim { s with hostQ := rest, pumps := item.waits })) := by
  obtain ⟨e, he⟩ := hd
  rw [step_of_hostItem hw hl hq, runDecoded_host_of_error he]

/-- Settles O9: an unlisted opcode and a policy above 1 do not decode, and what does not decode is `illegalCommand`; the malformed
commands are the readers' refusals. -/
theorem illegalHostCommandHasNoEffect : Obligations.IllegalHostCommandHasNoEffect := by
  refine ⟨fun s stim command waits rest hw hl hq hbad => ?step,
    (List.forall_mem_map (f := HostOp.opcode) (l := HostOp.withoutOperands)).mpr
      fun op hop t extra => ⟨_, decodeHost_superfluous hop t extra⟩,
    (List.forall_mem_map (f := HostOp.opcode) (l := HostOp.withOneByte)).mpr
      fun op hop operands h => ⟨_, decodeHost_notOneByte hop h⟩,
    fun operands h => ⟨_, decodeHost_notOneObserver h⟩, fun command h => ⟨_, decodeHost_noOpcode h⟩,
    fun s command e h => by rw [observerCommand_of_error h, illegalCommand_eq]⟩
  case step =>
    have hd : ∃ e, decode .host command = .error e := by
      obtain ⟨op, operands, rfl, hop⟩ | ⟨p, rfl, hp⟩ | he := hbad
      · exact ⟨_, decodeHost_unlisted (HostOp.ofOpcode_eq_none hop) operands⟩
      · exact ⟨_, decodeHost_policyAboveOne hp⟩
      · exact he
    rw [step_of_undecodable hw hl hq hd, illegalCommand_eq]; rfl

end Sys2Proof.Machine
end

section
/-! PROOFS. The checksum (spec/40_checksum.md R81, R84): its two accumulators in closed form; and a received frame that fails it
(spec/60_exceptions.md R150), from the frame boundary to the frame boundary. -/

namespace Sys2Proof.Machine

open Statement

/-! ### The two running sums -/

/-- What the second accumulator adds up to, starting from 0: each byte once for itself and once for every byte behind it. -/
def positionWeightedSum (bs : List Byte) : Nat := (bs.mapIdx fun k b => (bs.length - k) * b.toNat).sum

@[simp] theorem positionWeightedSum_nil : positionWeightedSum [] = 0 := rfl

@[simp] theorem positionWeightedSum_cons (b : Byte) (bs : List Byte) :
    positionWeightedSum (b :: bs) = (bs.length + 1) * b.toNat + positionWeightedSum bs := by
  simp [positionWeightedSum, List.mapIdx_cons]

/-- Accumulator addition, modulo 256 (R81). -/
theorem toNat_add_modEq (x y : Byte) : (x + y).toNat ≡ x.toNat + y.toNat [MOD 256] := by
  rw [BitVec.toNat_add]; exact Nat.mod_modEq ..

/-- The first accumulator, from any start. -/
theorem foldl_checksumStep_fst (acc : Byte × Byte) (bs : List Byte) :
    (bs.foldl checksumStep acc).1.toNat ≡ acc.1.toNat + (bs.map BitVec.toNat).sum [MOD 256] := by
  induction bs generalizing acc with
  | nil => exact Nat.ModEq.rfl
  | cons b bs ih =>
    calc (bs.foldl checksumStep (checksumStep acc b)).1.toNat
        ≡ (acc.1 + b).toNat + (bs.map BitVec.toNat).sum [MOD 256] := ih _
      _ ≡ acc.1.toNat + b.toNat + (bs.map BitVec.toNat).sum [MOD 256] := (toNat_add_modEq ..).add_right _
      _ = acc.1.toNat + ((b :: bs).map BitVec.toNat).sum := by simp [Nat.add_assoc]

/-- The second accumulator, from any start: it takes in the first one's start once per byte. -/
theorem foldl_checksumStep_snd (acc : Byte × Byte) (bs : List Byte) :
    (bs.foldl checksumStep acc).2.toNat ≡
      acc.2.toNat + bs.length * acc.1.toNat + positionWeightedSum bs [MOD 256] := by
  induction bs generalizing acc with
  | nil => simp [Nat.ModEq.rfl]
  | cons b bs ih =>
    have hA : (acc.1 + b).toNat ≡ acc.1.toNat + b.toNat [MOD 256] := toNat_add_modEq ..
    have hB : (acc.2 + (acc.1 + b)).toNat ≡ acc.2.toNat + (acc.1.toNat + b.toNat) [MOD 256] :=
      (toNat_add_modEq ..).trans (hA.add_left _)
    calc (bs.foldl checksumStep (checksumStep acc b)).2.toNat
        ≡ (acc.2 + (acc.1 + b)).toNat + bs.length * (acc.1 + b).toNat + positionWeightedSum bs [MOD 256] := ih _
      _ ≡ acc.2.toNat + (acc.1.toNat + b.toNat) + bs.length * (acc.1.toNat + b.toNat) + positionWeightedSum bs
            [MOD 256] := (hB.add (hA.mul_left _)).add_right _
      _ = acc.2.toNat + (b :: bs).length * acc.1.toNat + positionWeightedSum (b :: bs) := by
        rw [positionWeightedSum_cons, List.length_cons]; ring

/-- Settles O15: the loop of R81 started at (0, 0), by `foldl_checksumStep_fst` and `foldl_checksumStep_snd`; a byte is below 256. -/
theorem checksumIsTheTwoRunningSums : Obligations.ChecksumIsTheTwoRunningSums := by
  intro cls id len payload input
  have hA := foldl_checksumStep_fst (0#8, 0#8) input
  have hB := foldl_checksumStep_snd (0#8, 0#8) input
  simp only [BitVec.toNat_zero, Nat.mul_zero, Nat.zero_add] at hA hB
  exact ⟨(Nat.mod_eq_of_modEq hA.symm (BitVec.isLt _)).symm, (Nat.mod_eq_of_modEq hB.symm (BitVec.isLt _)).symm⟩

/-! ### A received frame, from a frame boundary -/

/-- The row of a received frame runs the reception of its bytes, whatever its key (spec/30_encoding.md R70). -/
theorem exec_rxInstr (cls id : Byte) (p : List Byte) (ckA ckB : Byte) (s : State) :
    exec (rxInstr cls id p ckA ckB) s = receive cls id p ckA ckB s := by
  unfold rxInstr frameKind
  split_ifs with hkey hkey hkey hkey hkey
  case neg => rfl
  all_goals
    obtain ⟨rfl, rfl⟩ := hkey
    rfl

/-- From a frame boundary a frame that fits PBUF is latched and completed (spec/41_frame_parser.md R87, R97; log 7). -/
theorem receive_of_waitHeader1 {s : State} {p : List Byte} (hs : s.parser.state = .waitHeader1)
    (hmax : p.length ≤ s.cfg.maxPayload) (cls id ckA ckB : Byte) :
    receive cls id p ckA ckB s = .next (s.latched cls id p ckA ckB s.rx).complete := by
  have hle : p.length ≤ 65535 := Nat.le_trans hmax s.cfg.maxPayload_le
  have hb : s.parserInBounds = true := by simp only [State.parserInBounds, hs]
  have hfeed : receiveFrame cls id p ckA ckB s = (s.latched cls id p ckA ckB s.rx).complete := by
    rw [receiveFrame, wireFrame_length]
    exact feed_wireFrame hs hmax rfl
  rw [receive, if_pos hle, hb, guardPbuf_true, hfeed]

/-- The latched state is the statements' `withFrame`. -/
theorem latched_eq_withFrame (s : State) (cls id : Byte) (p : List Byte) (ckA ckB : Byte) :
    s.latched cls id p ckA ckB s.rx = withFrame s cls id p ckA ckB (Memory.writeBytes s.parser.pbuf 0 p) := rfl

/-- PBUF with a payload written to its start (spec/20_memory.md R48). -/
theorem holdsPayload_writeBytes {m : List Host.Cell} (hw : Memory.wf m = true) (p : List Byte) :
    holdsPayload m (Memory.writeBytes m 0 p) p := by
  refine ⟨Memory.wf_writeBytes hw 0 p, fun k hk => ?_, fun k hk => ?_⟩
  · rw [byteAt, List.getD_eq_getElem _ _ hk, ← Memory.read_writeBytes hw 0 hk, Nat.zero_add]
  · exact Memory.read_writeBytes_after hw (by omega)

/-- A latched frame that Validate rejects is dropped with its event (R97, spec/60_exceptions.md R150). -/
theorem complete_of_invalid {s : State} (h : s.validate = false) :
    s.complete = released { s with events := s.events ++ [.checksumMismatch s.parser.cls s.parser.id] } := by
  rw [State.complete, h]; rfl

/-- Settles O34: the frame is latched, Validate rejects it (`latched_validate`), and it is dropped (`complete_of_invalid`). -/
theorem strictPolicyDropsACorruptedFrame : Obligations.StrictPolicyDropsACorruptedFrame := by
  intro s cls id p ckA ckB hs hw hmax hpolicy hck
  have hinvalid : (s.latched cls id p ckA ckB s.rx).validate = false := by
    rw [Bool.eq_false_iff, ne_eq, latched_validate hw (Nat.le_trans hmax s.cfg.maxPayload_le), hpolicy]
    exact fun h => h.elim nofun fun heq => hck heq.symm
  refine ⟨Memory.writeBytes s.parser.pbuf 0 p, holdsPayload_writeBytes hw p, ?_⟩
  rw [exec_rxInstr, receive_of_waitHeader1 hs hmax, complete_of_invalid hinvalid, latched_eq_withFrame]
  rfl

end Sys2Proof.Machine
end

section
/-! PROOFS. The FrameParser (spec/41_frame_parser.md R87 to R101): FEED as a run of the parser, its one-byte steps state by state, how
it composes and discards noise, and the round trip of an encoded frame. -/

namespace Sys2Proof.Machine

open Statement

/-! ### FEED under R20's bound -/

/-- FEED of bytes that RX has ready runs the parser. -/
theorem exec_feed {n : Nat} {s : State} (hn : n ≤ s.rx.length) (hb : s.parserInBounds = true) :
    exec (.feed n) s = .next (feed n s) := by
  show execFeed n s = _
  rw [execFeed, if_pos hn, hb, guardPbuf_true]

/-- FEED of one byte is one parser step. -/
theorem exec_feed_one {s : State} {b : Byte} {rest : List Byte} (hr : s.rx = b :: rest) (hb : s.parserInBounds = true) :
    exec (.feed 1) s = .next (parserStep b { s with rx := rest }) := by
  rw [exec_feed (by simp [hr]) hb, feed_cons hr, feed]

/-- Outside the payload and checksum states R20 bounds nothing. -/
theorem parserInBounds_of_header {s : State}
    (h : s.parser.state ∈ [.waitHeader1, .waitHeader2, .cls, .id, .lenLow, .lenHigh]) : s.parserInBounds = true := by
  unfold State.parserInBounds
  split
  case h_1 hs => simp [hs] at h
  case h_2 hs => simp [hs] at h
  case h_3 hs => simp [hs] at h
  all_goals rfl

/-! ### Header and field bytes -/

/-- Settles O18: both header states compare the byte with their constant (`stepWaitHeader1`, `stepWaitHeader2`). -/
theorem headerBytesAreMatched : Obligations.HeaderBytesAreMatched := by
  intro s b rest hr
  have hfeed := exec_feed_one hr
  refine ⟨fun hs hb => ?_, fun hs hb => ?_, fun hs hb => ?_, fun hs hb => ?_⟩
  all_goals rw [hfeed (parserInBounds_of_header (by simp [hs]))]
  all_goals simp only [parserStep, hs]
  · exact congrArg Host.Outcome.next (if_pos hb)
  · exact congrArg Host.Outcome.next (if_neg hb)
  · exact congrArg Host.Outcome.next (if_pos hb)
  · exact congrArg Host.Outcome.next (if_neg hb)

/-- Settles O19: each capturing state writes its register and moves on; LenLow's zero-extension keeps the byte's number. -/
theorem fieldBytesAreCaptured : Obligations.FieldBytesAreCaptured := by
  intro s b rest hr
  have hfeed := exec_feed_one hr
  refine ⟨fun hs => ?_, fun hs => ?_, fun hs => ?_, fun hs hmax => ?_⟩
  · rw [hfeed (parserInBounds_of_header (by simp [hs]))]; simp only [parserStep, hs]; rfl
  · rw [hfeed (parserInBounds_of_header (by simp [hs]))]; simp only [parserStep, hs]; rfl
  · rw [hfeed (parserInBounds_of_header (by simp [hs])), BitVec.ofNat_toNat]; simp only [parserStep, hs]; rfl
  · rw [hfeed (by simpa only [State.parserInBounds, hs, decide_eq_true_eq] using hmax)]
    simp only [parserStep, hs]; rfl

/-- The assembled length as a number (spec/30_encoding.md R73). -/
theorem wordOfBytes_loByte (hi : Byte) (v : U16) :
    wordOfBytes hi (loByte v) = BitVec.ofNat 16 (hi.toNat * 256 + v.toNat % 256) := by
  have hlo : (loByte v).toNat = v.toNat % 256 := by simp [loByte]
  apply BitVec.eq_of_toNat_eq
  rw [wordOfBytes, BitVec.toNat_append, ← Nat.shiftLeft_add_eq_or_of_lt (loByte v).isLt, hlo, Nat.shiftLeft_eq,
    BitVec.toNat_ofNat]
  have := hi.isLt
  omega

/-- Settles O20: the three branches of `stepLenHigh`, on the length that `wordOfBytes_loByte` writes as a number. -/
theorem lengthIsCheckedAgainstMaxPayload : Obligations.LengthIsCheckedAgainstMaxPayload := by
  intro s b rest len hr hs hlen
  rw [← wordOfBytes_loByte] at hlen
  rw [exec_feed_one hr (parserInBounds_of_header (by simp [hs]))]
  simp only [parserStep, hs, stepLenHigh, ← hlen]
  refine ⟨fun hover => ?_, fun hfits hzero => ?_, fun hfits hzero => ?_⟩
  · rw [if_pos hover]; rfl
  · rw [if_neg (Nat.not_lt.mpr hfits), if_pos hzero]; rfl
  · rw [if_neg (Nat.not_lt.mpr hfits), if_neg hzero]; rfl

/-! ### Payload bytes -/

/-- Below P_LEN, P_IDX counts up without wrapping, so reaching P_LEN is a matter of the numbers. -/
theorem add_one_eq_iff_toNat {idx len : U16} (h : idx.toNat < len.toNat) :
    idx + 1#16 = len ↔ idx.toNat + 1 = len.toNat := by
  bv_omega

/-- Settles O21: the buffer after `Memory.write`, by the laws of reading after a write. -/
theorem payloadBytesFillTheBufferInOrder : Obligations.PayloadBytesFillTheBufferInOrder := by
  intro s b rest hr hs hidx hmax hw
  have hb : s.parserInBounds = true := by
    simp only [State.parserInBounds, hs, Bool.and_eq_true, decide_eq_true_eq]
    exact ⟨hidx, hmax⟩
  have hlast := add_one_eq_iff_toNat hidx
  rw [exec_feed_one hr hb]
  simp only [parserStep, hs, stepPayload, State.memWrite_parser]
  refine ⟨Memory.write s.parser.pbuf s.parser.idx.toNat b, Memory.wf_write hw .., Memory.read_write_same hw ..,
    fun k hk => Memory.read_write_other hw hk b, fun heq => ?_, fun hne => ?_⟩
  · rw [if_pos (hlast.mpr heq), hlast.mpr heq]; rfl
  · rw [if_neg (mt hlast.mp hne), ← hs]; rfl

/-! ### Completing a frame -/

/-- Validate as the statements say it (spec/40_checksum.md R83 to R85). -/
theorem validate_iff (s : State) : s.validate = true ↔
    s.policy = .permissive ∨ checksum s.parser.cls s.parser.id s.parser.len s.payload = (s.parser.ckA, s.parser.ckB) := by
  unfold State.validate
  cases s.policy with
  | permissive => simp
  | strict => simp [State.validateStrict]

/-- A frame that Validate accepts is dispatched and released (R97). -/
theorem complete_of_valid {s : State} (h : s.validate = true) : s.complete = released (dispatchFrame s) := by
  rw [State.complete, if_pos h]; rfl

/-- DISPATCH of a payload that PBUF can hold goes on. -/
theorem exec_dispatch {s : State} (hmax : s.parser.len.toNat ≤ s.cfg.maxPayload) :
    exec .dispatch s = .next (dispatchFrame s) :=
  guardPbuf_next.mpr ⟨decide_eq_true hmax, rfl⟩

/-- Settles O22: the ChecksumB step is `State.complete` of `f`, and its two branches are `validate_iff`'s two sides. -/
theorem lastByteValidatesThenDispatches : Obligations.LastByteValidatesThenDispatches := by
  intro s f b rest hr hs hmax hf
  have hstep : parserStep b { s with rx := rest } = f.complete := by
    simp only [parserStep, hs]
    rw [hf]
    rfl
  have hfeed : exec (.feed 1) s = .next f.complete := by
    rw [exec_feed_one hr (by simpa only [State.parserInBounds, hs, decide_eq_true_eq] using hmax), hstep]
  have hfmax : f.parser.len.toNat ≤ f.cfg.maxPayload := by rw [hf]; exact hmax
  have hpolicy : f.policy = s.policy := by rw [hf]
  rw [← hpolicy]
  refine ⟨fun hvalid => ?_, fun hstrict hck => ?_⟩
  · exact ⟨dispatchFrame f, exec_dispatch hfmax, by rw [hfeed, complete_of_valid ((validate_iff f).mpr hvalid)]⟩
  · have hinvalid : f.validate = false := by
      rw [Bool.eq_false_iff, ne_eq, validate_iff, hstrict]
      exact fun h => h.elim nofun hck
    rw [hfeed, complete_of_invalid hinvalid]

/-! ### FEED of many bytes -/

/-- Settles O23: the frame of FEED (`feed_frame`). -/
theorem feedConsumesExactlyItsCount : Obligations.FeedConsumesExactlyItsCount := by
  intro s n hn hb
  obtain ⟨hframe, hrx⟩ := feed_frame n s
  exact ⟨feed n s, exec_feed hn hb, hrx, hframe.cfg, hframe.eState, hframe.bound, hframe.waitT0, hframe.wait, hframe.pumps,
    hframe.hostQ, hframe.opLatch, hframe.pending⟩

/-- Settles O25: `feed_add`; the first FEED leaves `b` bytes and keeps R20's bound. -/
theorem splitFeedsConsumeAsOne : Obligations.SplitFeedsConsumeAsOne := by
  intro s a b hn hb
  have hleft : b ≤ (feed a s).rx.length := by
    rw [(feed_frame a s).2, List.length_drop]; omega
  exact ⟨feed a s, feed b (feed a s), exec_feed (by omega) hb, exec_feed hleft (feed_inBounds hb),
    by rw [exec_feed hn hb, feed_add]⟩

/-- WaitHeader1 discards bytes that are no header byte, one event each (R89). -/
theorem feed_noise {noise rest : List Byte} {s : State} (hs : s.parser.state = .waitHeader1)
    (hnoise : ∀ b ∈ noise, b ≠ hdr1) (hr : s.rx = noise ++ rest) :
    feed noise.length s = { s with rx := rest, events := s.events ++ noise.map Event.noise } := by
  induction noise generalizing s with
  | nil => simp only [List.nil_append] at hr; simp [feed, ← hr]
  | cons b noise ih =>
    obtain ⟨hb, hrest⟩ := List.forall_mem_cons.mp hnoise
    have hstep : parserStep b { s with rx := noise ++ rest } = State.raise (.noise b) { s with rx := noise ++ rest } := by
      simp only [parserStep, hs, stepWaitHeader1, if_neg hb]
    rw [List.length_cons, feed_cons (rest := noise ++ rest) hr, hstep,
      ih (s := State.raise (.noise b) { s with rx := noise ++ rest }) hs hrest rfl]
    simp [State.raise]

/-- Settles O27: `feed_noise`. -/
theorem noiseBeforeAFrameIsDiscarded : Obligations.NoiseBeforeAFrameIsDiscarded := by
  intro s noise rest hs hnoise hr
  rw [exec_feed (by simp [hr]) (parserInBounds_of_header (by simp [hs])), feed_noise hs hnoise hr]

/-- Settles O35: the row puts the frame's bytes first on RX and feeds them (`exec_rxInstr`, log 7). -/
theorem receivedRowsFeedTheirBytes : Obligations.ReceivedRowsFeedTheirBytes := by
  intro s cls id p ckA ckB hp hb
  have hlen := wireFrame_length cls id p ckA ckB
  have hrx : (receiveFrame cls id p ckA ckB s).rx = s.rx := by
    rw [receiveFrame, (feed_frame _ _).2, List.drop_left]
  refine ⟨receiveFrame cls id p ckA ckB s, ?_, hrx, ?_⟩
  · rw [exec_rxInstr, receive, if_pos hp, hb, guardPbuf_true]
  · rw [← hlen]
    exact exec_feed (s := { s with rx := wireFrame cls id p ckA ckB ++ s.rx }) (by simp) hb

/-! ### The round trip of a frame -/

/-- No handler notifies (spec/44_dispatch.md R136 to R142). -/
theorem handle_notes (s : State) : (handle s).notes = s.notes := by
  unfold handle
  split
  case h_4 => unfold handleNavStatus; split <;> rfl
  case h_5 => unfold handleNavTimeutc; split <;> rfl
  all_goals rfl

/-- Notify delivers the frame in the parser registers, once, to the observer attached, if one is (R144, R145). -/
theorem notify_notes (s : State) : (notify s).notes = s.notes ++ (s.obs.map s.notification).toList := by
  rcases notify_cases s with ⟨hobs, h⟩ | ⟨o, u, hobs, hu, h⟩
  · simp [h, hobs]
  · rw [h, hobs]; exact hu.notes

/-- DISPATCH notifies of the frame as it stood before the handler, which changes neither it nor the observer (R135). -/
theorem dispatchFrame_notes (s : State) :
    (dispatchFrame s).notes = s.notes ++ (s.obs.map s.notification).toList := by
  obtain ⟨-, hparser, -, hobs, -⟩ := handle_frame s
  have hnote : (handle s).notification = s.notification := by
    funext o; simp only [State.notification, State.payload, hparser]
  rw [dispatchFrame, notify_notes, handle_notes, hobs, hnote]

/-- DISPATCH of a latched frame notifies of exactly this frame (R135, R144). -/
theorem dispatchFrame_latched_notes {s : State} (hw : Memory.wf s.parser.pbuf = true) {p : List Byte}
    (hle : p.length ≤ 65535) (cls id ckA ckB : Byte) (rest : List Byte) :
    (dispatchFrame (s.latched cls id p ckA ckB rest)).notes =
      s.notes ++ (s.obs.map fun o => ⟨o, cls, id, BitVec.ofNat 16 p.length, p⟩).toList := by
  have hnote : (s.latched cls id p ckA ckB rest).notification = fun o => ⟨o, cls, id, BitVec.ofNat 16 p.length, p⟩ := by
    funext o; rw [State.notification, latched_payload hw hle]; rfl
  rw [dispatchFrame_notes, hnote]; rfl

/-- Settles O26: the frame's bytes are latched (`feed_wireFrame`); the latched payload is the frame's, so under either policy
Validate accepts the checksum ENCODE computed (`latched_validate`), and the frame is dispatched once and released. -/
theorem encodedFrameComesBackThroughTheParser : Obligations.EncodedFrameComesBackThroughTheParser := by
  intro s cls id p rest hs hw hmax hr
  have hle : p.length ≤ 65535 := Nat.le_trans hmax s.cfg.maxPayload_le
  generalize hck : checksum cls id (BitVec.ofNat 16 p.length) p = ck
  have hwire : s.rx = wireFrame cls id p ck.1 ck.2 ++ rest := by rw [hr, encodeFrame, hck]
  have hvalid : (s.latched cls id p ck.1 ck.2 rest).validate = true := (latched_validate hw hle ..).mpr (.inr hck)
  have hnotes := dispatchFrame_latched_notes hw hle cls id ck.1 ck.2 rest
  refine ⟨Memory.writeBytes s.parser.pbuf 0 p, dispatchFrame (s.latched cls id p ck.1 ck.2 rest),
    holdsPayload_writeBytes hw p, exec_dispatch ((toNat_ofNat_length hle).trans_le hmax), ?_, rfl,
    (dispatchFrame_frame _).2.2, fun hobs => ?_, fun o hobs => ?_⟩
  · rw [exec_feed (by simp [hwire, wireFrame_length]) (parserInBounds_of_header (by simp [hs])),
      feed_wireFrame hs hmax hwire, complete_of_valid hvalid]
  · simpa [hobs] using hnotes
  · simpa [hobs] using hnotes

end Sys2Proof.Machine
end

section
/-! PROOFS. The sending operations (spec/42_codec.md R103, spec/43_session.md R130, spec/30_encoding.md R62, R63): what each does to the
state, and the three polls byte for byte (spec/43_session.md R122 to R124). -/

namespace Sys2Proof.Machine

open Statement

/-! ### The polls on the wire -/

/-- The MON-VER poll is ENCODE of its key with no payload (R122). -/
theorem encodeFrame_verPoll : encodeFrame 0x0A#8 0x04#8 [] = verPoll := by decide

/-- The NAV-STATUS poll is ENCODE of its key with no payload (R123). -/
theorem encodeFrame_statusPoll : encodeFrame 0x01#8 0x03#8 [] = statusPoll := by decide

/-- The NAV-TIMEUTC poll is ENCODE of its key with no payload (R124). -/
theorem encodeFrame_timeUtcPoll : encodeFrame 0x01#8 0x21#8 [] = timeUtcPoll := by decide

/-! ### Sending -/

/-- SEND_FRAME changes TX only (R103). -/
theorem sendFrame_eq_sent (c i : Byte) (p : List Byte) (s : State) : sendFrame c i p s = sent (encodeFrame c i p) s :=
  sendFrame_eq c i p s

/-- A poll is the frame with no payload (R130). -/
theorem sendPoll_eq_sent (c i : Byte) (s : State) : sendPoll c i s = sent (encodeFrame c i []) s :=
  sendFrame_eq_sent c i [] s

/-- SEND_FRAME of a payload that fits (R102, R103). -/
theorem exec_sendFrame {p : List Byte} (h : p.length ≤ 65535) (c i : Byte) (s : State) :
    exec (.sendFrame c i p) s = .next (sent (encodeFrame c i p) s) := by
  show execSendFrame c i p s = _
  rw [execSendFrame, if_pos h, sendFrame_eq_sent]

/-- Settles O17: SEND_FRAME writes its frame and no more (`sendFrame_eq_sent`), and every other operation here is a use of it; the three
polls are the bytes written out. -/
theorem sendersAppendTheirFrame : Obligations.SendersAppendTheirFrame := by
  intro s
  refine ⟨fun c i p hp => exec_sendFrame hp c i s, fun c i => ?pollMessage, fun c i r => ?cfgMsg, ?ver, ?status, ?timeUtc⟩
  case pollMessage =>
    show execPollMessage c i s = _
    rw [execPollMessage, sendPoll_eq_sent]; rfl
  case cfgMsg =>
    show execTxCfgMsg c i r s = _
    rw [execTxCfgMsg, sendCfgMsg, sendFrame_eq_sent]
  case ver =>
    show execTxMonVerPoll s = _
    rw [execTxMonVerPoll, sendPoll_eq_sent, encodeFrame_verPoll]
  case status =>
    show execTxNavStatusPoll s = _
    rw [execTxNavStatusPoll, sendPoll_eq_sent, encodeFrame_statusPoll]
  case timeUtc =>
    show execTxNavTimeutcPoll s = _
    rw [execTxNavTimeutcPoll, sendPoll_eq_sent, encodeFrame_timeUtcPoll]

end Sys2Proof.Machine
end

section
/-! PROOFS. The host commands (spec/43_session.md R111 to R119, R122 to R128): what acceptance lets through and whom a result goes to;
the commands that start no wait, at the HOST port and from the observer (R113). -/

namespace Sys2Proof.Machine

open Statement

/-! ### Acceptance and results, in the statements' words -/

/-- Inside a notification the results are the observer's (spec/44_dispatch.md R144), outside one the host's. -/
theorem issuer_of_idle {s : State} (h : s.inNotify = false) : s.issuer = .host := by
  rw [State.issuer, h]; rfl

theorem answer_of_idle {s : State} (h : s.inNotify = false) (c : ResultCode) (d : ReadData) :
    s.answer c d = returned .host c d s := by
  rw [State.answer, issuer_of_idle h]; rfl

/-- Outside a notification, with a transport, every command passes (R111). -/
theorem refusedAtAcceptance_of_bound {op : HostOp} {s : State} (hn : s.inNotify = false) (hb : s.bound = true) :
    refusedAtAcceptance op s = none :=
  refusedAtAcceptance_none (fun h => by rw [hn] at h; cases h) fun _ => hb

theorem accept_of_bound {op : HostOp} {s : State} (hn : s.inNotify = false) (hb : s.bound = true)
    (run : State → Host.Outcome State Fault Refusal) : accept op run s = run s :=
  accept_of_none (refusedAtAcceptance_of_bound hn hb) run

/-- A command that R113 allows in a notification and that needs no transport passes in every state. -/
theorem acceptThen_of_always {op : HostOp} (hr : refusedInNotify op = false) (ht : needsTransport op = false)
    (run : State → State) (s : State) : acceptThen op run s = run s :=
  acceptThen_of_none (refusedAtAcceptance_none (fun _ => hr) fun h => by rw [ht] at h; cases h) run

/-- A command of REFUSED_IN_NOTIFY inside a notification (R113, R153). -/
theorem accept_in_notify {op : HostOp} {s : State} (h : s.inNotify = true) (hop : refusedInNotify op = true)
    (run : State → Host.Outcome State Fault Refusal) :
    accept op run s = .next (refusedWith (.reentrant op) .reentrant s) :=
  accept_of_some (refusedAtAcceptance_reentrant h hop) run

theorem acceptThen_in_notify {op : HostOp} {s : State} (h : s.inNotify = true) (hop : refusedInNotify op = true)
    (run : State → State) : acceptThen op run s = refusedWith (.reentrant op) .reentrant s :=
  acceptThen_of_some (refusedAtAcceptance_reentrant h hop) run

/-- The four commands that pump, as acceptance around their rules (R118 to R121). -/
theorem exec_initEngine (s : State) : exec .initEngine s =
    accept .initEngine
      (fun s => if s.eState = .initialized then .next (s.answer .ok .none)
        else guardPbuf s.parserInBounds (runWait (startInit s))) s := rfl

theorem exec_process (s : State) : exec .process s =
    accept .process (fun s => guardPbuf s.parserInBounds ((pump s).answer .ok .none)) s := rfl

theorem exec_subscribeStatus (r : Byte) (s : State) : exec (.subscribeStatus r) s =
    accept .subscribeStatus
      (fun s => guardPbuf s.parserInBounds (runWait (startRate .subscribeStatus 0x01#8 0x03#8 r s))) s := rfl

theorem exec_subscribeTimeutc (r : Byte) (s : State) : exec (.subscribeTimeutc r) s =
    accept .subscribeTimeutc
      (fun s => guardPbuf s.parserInBounds (runWait (startRate .subscribeTimeutc 0x01#8 0x21#8 r s))) s := rfl

/-! ### Configuration -/

/-- Settles O2: BIND needs no transport, and R113 refuses it in a notification. -/
theorem bindStartsAtAFrameBoundary : Obligations.BindStartsAtAFrameBoundary := by
  refine ⟨rfl, fun s => ⟨fun hn => ?_, fun hn => congrArg Host.Outcome.next (acceptThen_in_notify hn rfl bind)⟩⟩
  have hpass : refusedAtAcceptance .bind s = none :=
    refusedAtAcceptance_none (fun h => by rw [hn] at h; cases h) nofun
  show Host.Outcome.next (acceptThen .bind bind s) = _
  rw [acceptThen_of_none hpass, bind, answer_of_idle]
  exact hn

/-- Settles O3: neither command is ever refused (`acceptThen_of_always`). -/
theorem observerSlotIsReplacedAndCleared : Obligations.ObserverSlotIsReplacedAndCleared :=
  ⟨fun _ => rfl, rfl, fun s =>
    ⟨fun _ => congrArg Host.Outcome.next (acceptThen_of_always (op := .attachObserver) rfl rfl _ s),
      congrArg Host.Outcome.next (acceptThen_of_always (op := .detachObserver) rfl rfl _ s)⟩⟩

/-- An operand above 1 names no policy (spec/30_encoding.md R74). -/
theorem policyOf_above_one {p : Byte} (h : 1 < p.toNat) : policyOf p = none := by
  have h0 : p ≠ 0#8 := by rintro rfl; simp at h
  have h1 : p ≠ 1#8 := by rintro rfl; simp at h
  rw [policyOf, if_neg h0, if_neg h1]

/-- An operand that names a policy sets it, in every state (R117). -/
theorem commandSetChecksumPolicy_of_policy {p : Byte} {policy : Policy} (h : policyOf p = some policy) (s : State) :
    commandSetChecksumPolicy p s = returned s.issuer .ok .none { s with policy := policy } := by
  rw [commandSetChecksumPolicy, h]
  exact acceptThen_of_always rfl rfl _ s

/-- Settles O4: `policyOf` decides the operand. -/
theorem checksumPolicyTakesOnlyZeroAndOne : Obligations.ChecksumPolicyTakesOnlyZeroAndOne := by
  intro s
  refine ⟨congrArg Host.Outcome.next (commandSetChecksumPolicy_of_policy rfl s),
    congrArg Host.Outcome.next (commandSetChecksumPolicy_of_policy rfl s), fun p hp => ?_⟩
  show Host.Outcome.next (commandSetChecksumPolicy p s) = _
  rw [commandSetChecksumPolicy, policyOf_above_one hp, illegalCommand_eq]

/-! ### Polls and accessors -/

/-- A request with a transport sends its poll and returns OK, in a notification or not (R122 to R124). -/
theorem commandRequest_of_bound {op : HostOp} (hop : refusedInNotify op = false) {s : State} (hb : s.bound = true)
    (c i : Byte) : commandRequest op c i s = returned s.issuer .ok .none (sent (encodeFrame c i []) s) := by
  rw [commandRequest, acceptThen_of_none (refusedAtAcceptance_none (fun _ => hop) fun _ => hb), sendPoll_eq_sent]
  rfl

/-- Without one it fails (R112, R152). -/
theorem commandRequest_of_unbound {op : HostOp} (hop : refusedInNotify op = false) (ht : needsTransport op = true)
    {s : State} (hb : s.bound = false) (c i : Byte) :
    commandRequest op c i s = refusedWith (.transportUnbound op) .transportUnbound s :=
  acceptThen_of_some (refusedAtAcceptance_unbound (fun _ => hop) ht hb) _

/-- Settles O5: `commandRequest` with and without a transport; the polls are the bytes written out. -/
theorem requestsWriteTheirPolls : Obligations.RequestsWriteTheirPolls := by
  rw [Obligations.RequestsWriteTheirPolls, ← encodeFrame_verPoll, ← encodeFrame_statusPoll, ← encodeFrame_timeUtcPoll]
  refine ⟨rfl, rfl, rfl, fun s => ⟨fun hb => ⟨?_, ?_, ?_⟩, fun hb => ⟨?_, ?_, ?_⟩⟩⟩
  · exact congrArg Host.Outcome.next (commandRequest_of_bound (op := .requestVersion) rfl hb ..)
  · exact congrArg Host.Outcome.next (commandRequest_of_bound (op := .requestStatus) rfl hb ..)
  · exact congrArg Host.Outcome.next (commandRequest_of_bound (op := .requestTimeutc) rfl hb ..)
  · exact congrArg Host.Outcome.next (commandRequest_of_unbound (op := .requestVersion) rfl rfl hb ..)
  · exact congrArg Host.Outcome.next (commandRequest_of_unbound (op := .requestStatus) rfl rfl hb ..)
  · exact congrArg Host.Outcome.next (commandRequest_of_unbound (op := .requestTimeutc) rfl rfl hb ..)

/-- READ_INITIALIZED compares E_STATE (R128). -/
theorem exec_readInitialized (s : State) : exec .readInitialized s =
    .next (returned s.issuer .ok (.initialized (decide (s.eState = .initialized))) s) :=
  congrArg Host.Outcome.next (acceptThen_of_always (op := .readInitialized) rfl rfl _ s)

/-- Settles O6: the accessors are never refused, and each only answers. -/
theorem accessorsReturnTheSnapshots : Obligations.AccessorsReturnTheSnapshots := by
  refine ⟨rfl, rfl, rfl, rfl, fun s => ⟨?_, ?_, ?_, fun hs => ?_, fun hs => ?_⟩⟩
  · exact congrArg Host.Outcome.next (acceptThen_of_always (op := .readVersion) rfl rfl _ s)
  · exact congrArg Host.Outcome.next (acceptThen_of_always (op := .readTimeutc) rfl rfl _ s)
  · exact congrArg Host.Outcome.next (acceptThen_of_always (op := .readStatus) rfl rfl _ s)
  · rw [exec_readInitialized, decide_eq_true hs]
  · rw [exec_readInitialized, decide_eq_false hs]

/-! ### In a notification -/

/-- Settles O7: the five commands of REFUSED_IN_NOTIFY fail the first check of acceptance, so E_BOUND does not matter. -/
theorem blockingCallsInANotificationAreReentrant : Obligations.BlockingCallsInANotificationAreReentrant := by
  refine fun s h => ⟨?_, fun r => ?_, fun r => ?_, ?_, congrArg Host.Outcome.next (acceptThen_in_notify h rfl bind)⟩
  · rw [exec_initEngine, accept_in_notify h rfl]
  · rw [exec_subscribeStatus, accept_in_notify h rfl]
  · rw [exec_subscribeTimeutc, accept_in_notify h rfl]
  · rw [exec_process, accept_in_notify h rfl]

/-- A host command comes back from its tokens (spec/30_encoding.md R65, R71). -/
theorem decode_encode_host {i : Instr} (hi : i.space = .host) (hw : i.WellFormed) : decode .host (encode i) = .ok i := by
  cases i with
  | setChecksumPolicy p => rcases hw with rfl | rfl <;> rfl
  | bind | attachObserver | detachObserver | initEngine | process | subscribeStatus | subscribeTimeutc | requestVersion
  | requestStatus | requestTimeutc | readVersion | readTimeutc | readStatus | readInitialized => rfl
  | _ => cases hi

/-- In a notification a host command is what the observer may issue: REENTRANT for the five commands of REFUSED_IN_NOTIFY, and the
same rule for the others. -/
theorem exec_in_notify {i : Instr} (hi : i.space = .host) {s : State} (hn : s.inNotify = true) (command : List Tok) :
    exec i s = .next (observerRun command i s) := by
  cases i with
  | bind => exact congrArg Host.Outcome.next (acceptThen_in_notify hn rfl bind)
  | initEngine => rw [exec_initEngine, accept_in_notify hn rfl]; rfl
  | process => rw [exec_process, accept_in_notify hn rfl]; rfl
  | subscribeStatus r => rw [exec_subscribeStatus, accept_in_notify hn rfl]; rfl
  | subscribeTimeutc r => rw [exec_subscribeTimeutc, accept_in_notify hn rfl]; rfl
  | attachObserver | detachObserver | setChecksumPolicy | requestVersion | requestStatus | requestTimeutc | readVersion
  | readTimeutc | readStatus | readInitialized => rfl
  | _ => cases hi

/-- Settles O38: the observer's tokens decode to the command, which runs in the notification as it does at the HOST port
(`exec_in_notify`). -/
theorem observerCommandsRunAsHostCommands : Obligations.ObserverCommandsRunAsHostCommands := by
  intro s i hi hw hn
  rw [exec_in_notify hi hn (encode i), observerCommand, decode_encode_host hi hw]

/-! ### PROCESS, and INITIALIZE once initialized -/

/-- Settles O39: PROCESS is one pump, which is FEED of all that RX has ready (`pump_frame`). -/
theorem processFeedsWhatIsReady : Obligations.ProcessFeedsWhatIsReady := by
  rintro s ⟨hn, hb, hbounds⟩
  obtain ⟨hframe, hrx⟩ := pump_frame s
  have hidle : (pump s).inNotify = false := hframe.inNotify.elim (·.trans hn) id
  refine ⟨pump s, exec_feed le_rfl hbounds, hrx, hframe.wait, ?_⟩
  rw [exec_process, accept_of_bound hn hb, hbounds, guardPbuf_true, answer_of_idle hidle]

/-- Settles O40: INITIALIZE tests E_STATE before it does anything (spec/92_eei_decisions.md D12). -/
theorem initializeIsANoOpOnceInitialized : Obligations.InitializeIsANoOpOnceInitialized := by
  intro s hn hb hs
  rw [exec_initEngine, accept_of_bound hn hb, if_pos hs, answer_of_idle hn]

end Sys2Proof.Machine
end

section
/-! PROOFS. The loop of WAIT_PENDING in the statements' words (spec/43_session.md R129 to R132): how a wait starts, one iteration, and
how a step goes on after it; waits in which nothing arrives, to the deadline and past it (spec/92_eei_decisions.md D3 to D5). -/

namespace Sys2Proof.Machine

open Statement

/-! ### Starts and ends of a wait -/

/-- SET_MESSAGE_RATE up to its wait (R129). -/
theorem startRate_eq_requested (w : Waiter) (c i r : Byte) (s : State) : startRate w c i r s = requested w c i r s :=
  startRate_eq w c i r s

/-- What the waiting operation does with its result (R118, R120, R121, R129, R131). -/
theorem resume_eq_afterWait (w : Waiter) (r : ResultCode) (s : State) : resume w r s = afterWait w r s := by
  cases w with
  | waitPending | setMessageRate | subscribeStatus | subscribeTimeutc => rfl
  | disableNmea k | initNmea k =>
    cases k with
    | vtg => rfl
    | gga | gll | gsa | gsv | rmc => exact startRate_eq_requested ..
  | initVersion => exact if_congr Iff.rfl rfl (startRate_eq_requested ..)

theorem afterWait_parserInBounds (w : Waiter) (r : ResultCode) (s : State) :
    (afterWait w r s).parserInBounds = s.parserInBounds := by
  obtain ⟨hparser, hcfg, -⟩ := resume_keeps w r s
  rw [← resume_eq_afterWait, State.parserInBounds, hparser, hcfg, State.parserInBounds]

theorem afterWait_pumps (w : Waiter) (r : ResultCode) (s : State) : (afterWait w r s).pumps = s.pumps := by
  obtain ⟨-, -, -, -, -, -, hpumps, -⟩ := resume_keeps w r s
  rw [← resume_eq_afterWait, hpumps]

/-! ### Elapsed time -/

/-- What R162 calls elapsed, for a start sample of CLOCK_W bits. -/
theorem waited_eq_elapsed {s : State} (h : s.waitT0 < 2 ^ s.cfg.clockW) :
    waited s = elapsed s.cfg.clockW s.now s.waitT0 := by
  rw [waited, elapsed, Nat.mod_eq_of_lt h, State.now, Nat.add_sub_assoc h.le]

/-- The deadline check of an iteration (spec/92_eei_decisions.md D3). -/
theorem expired_iff_waited {s : State} (h : s.waitT0 < 2 ^ s.cfg.clockW) : s.expired = true ↔ 5000 ≤ waited s := by
  rw [State.expired, decide_eq_true_eq, waited_eq_elapsed h, timeoutMs]

/-- Time that passes adds to it, short of one turn of the clock. -/
theorem waited_later {s : State} {d : Nat} (h : s.waitT0 < 2 ^ s.cfg.clockW) (hd : waited s + d < 2 ^ s.cfg.clockW)
    (pumps : List Stim) : waited { s with pumps := pumps, clk := s.clk + d } = waited s + d := by
  rw [waited_eq_elapsed h] at hd ⊢
  exact (waited_eq_elapsed (s := { s with pumps := pumps, clk := s.clk + d }) h).trans (elapsed_add hd)

/-- At the start sample nothing has elapsed. -/
theorem waited_of_start {s : State} (h : s.waitT0 = s.clk % 2 ^ s.cfg.clockW) : waited s = 0 := by
  rw [waited, h, Nat.add_sub_cancel_left, Nat.mod_self]

/-! ### One iteration -/

section
variable {w : Waiter} {s : State}

/-- Nothing is pending after the pump: the wait ends with OK (R132). -/
theorem waitIteration_ok (h : (pump s).pending = .none) :
    waitIteration w s = afterWait w .ok { pump s with wait := none } := by
  rw [waitIteration_cleared h, resume_eq_afterWait]

/-- The start sample is the same after a pump, and so is its width. -/
theorem sampled_pump_waitT0 (h0 : s.waitT0 < 2 ^ s.cfg.clockW) :
    (sampled (pump s)).waitT0 < 2 ^ (sampled (pump s)).cfg.clockW := by
  obtain ⟨hframe, -⟩ := pump_frame s
  show (pump s).waitT0 < 2 ^ (pump s).cfg.clockW
  rw [hframe.waitT0, hframe.cfg]
  exact h0

/-- Something is pending and the deadline has passed: it ends with TIMEOUT. -/
theorem waitIteration_timeout (h0 : s.waitT0 < 2 ^ s.cfg.clockW) (h : (pump s).pending ≠ .none)
    (h5 : 5000 ≤ waited (sampled (pump s))) :
    waitIteration w s = afterWait w .timeout (expired w (sampled (pump s))) := by
  rw [waitIteration_expired h ((expired_iff_waited (sampled_pump_waitT0 h0)).mpr h5), resume_eq_afterWait]
  rfl

/-- Something is pending and the deadline has not passed: it goes on. -/
theorem waitIteration_waits (h0 : s.waitT0 < 2 ^ s.cfg.clockW) (h : (pump s).pending ≠ .none)
    (h5 : waited (sampled (pump s)) < 5000) : waitIteration w s = sampled (pump s) :=
  waitIteration_goesOn h
    (Bool.eq_false_iff.mpr fun he => Nat.not_le.mpr h5 ((expired_iff_waited (sampled_pump_waitT0 h0)).mp he))

/-- After its pump an iteration leaves the parser and the environment's store alone. -/
theorem waitIteration_keeps_pump (w : Waiter) (s : State) :
    (waitIteration w s).parserInBounds = (pump s).parserInBounds ∧ (waitIteration w s).pumps = (pump s).pumps := by
  unfold waitIteration
  dsimp only
  split
  · rw [resume_eq_afterWait, afterWait_parserInBounds, afterWait_pumps]; exact ⟨rfl, rfl⟩
  · split
    · rw [resume_eq_afterWait, afterWait_parserInBounds, afterWait_pumps]; exact ⟨rfl, rfl⟩
    · exact ⟨rfl, rfl⟩

/-! ### A step with a wait in progress -/

/-- With an entry in the environment's store a step is one iteration and what follows it (log 1). -/
theorem step_eq_onward {st : Stim} {rest : List Stim} (hw : s.wait = some w) (hb : s.parserInBounds = true)
    (hp : s.pumps = st :: rest) : step s = onward (waitIteration w s) := by
  obtain ⟨hbounds, hpumps⟩ := waitIteration_keeps_pump w s
  rw [(pump_frame s).1.pumps, State.rxArrive_pumps, hp, List.tail_cons] at hpumps
  rw [step_of_wait hw hb, runWait_cons hw hp, onward]
  cases hv : (waitIteration w s).wait with
  | none => rw [if_pos rfl, drive_done hv]
  | some v => rw [if_neg nofun, step_of_wait hv (hbounds.trans (pump_inBounds hb)), runWait, hpumps]

/-- With none it is one iteration. -/
theorem step_eq_waitIteration (hw : s.wait = some w) (hb : s.parserInBounds = true) (hp : s.pumps = []) :
    step s = .next (waitIteration w s) := by
  rw [step_of_wait hw hb, runWait_nil hw hp]

end

/-- A request starts a wait, so a step that has come to one goes on with it. -/
theorem onward_requested (w : Waiter) (c i r : Byte) (s : State) :
    onward (requested w c i r s) = step (requested w c i r s) := if_neg nofun

theorem onward_of_idle {s : State} (h : s.wait = none) : onward s = .next s := if_pos h

/-! ### The blocking operations start their waits -/

section
variable {s : State} (hb : s.parserInBounds = true)
include hb

/-- An operation that starts a wait and runs it is a step from the start of its wait. -/
theorem guardPbuf_runWait {t : State} {w : Waiter} (hw : t.wait = some w) (ht : t.parserInBounds = true) :
    guardPbuf s.parserInBounds (runWait t) = step t := by
  rw [hb, guardPbuf_true, step_of_wait hw ht]

theorem guardPbuf_startRate (w : Waiter) (c i r : Byte) :
    guardPbuf s.parserInBounds (runWait (startRate w c i r s)) = step (requested w c i r s) := by
  rw [startRate_eq_requested]
  exact guardPbuf_runWait hb rfl hb

theorem exec_setMessageRate (c i r : Byte) :
    exec (.setMessageRate c i r) s = step (requested .setMessageRate c i r s) := guardPbuf_startRate hb ..

theorem exec_disableDefaultNmea :
    exec .disableDefaultNmea s = step (requested (.disableNmea .gga) 0xF0#8 0x00#8 0x00#8 s) :=
  guardPbuf_startRate hb ..

theorem exec_waitPending : exec .waitPending s = step (startWait .waitPending s) := guardPbuf_runWait hb rfl hb

theorem exec_subscribeStatus_accepted (hn : s.inNotify = false) (hbound : s.bound = true) (r : Byte) :
    exec (.subscribeStatus r) s = step (requested .subscribeStatus 0x01#8 0x03#8 r s) := by
  rw [exec_subscribeStatus, accept_of_bound hn hbound, guardPbuf_startRate hb]

theorem exec_subscribeTimeutc_accepted (hn : s.inNotify = false) (hbound : s.bound = true) (r : Byte) :
    exec (.subscribeTimeutc r) s = step (requested .subscribeTimeutc 0x01#8 0x21#8 r s) := by
  rw [exec_subscribeTimeutc, accept_of_bound hn hbound, guardPbuf_startRate hb]

theorem exec_initEngine_accepted (hn : s.inNotify = false) (hbound : s.bound = true) (hs : s.eState ≠ .initialized) :
    exec .initEngine s = step (startInit s) := by
  rw [exec_initEngine, accept_of_bound hn hbound, if_neg hs]
  exact guardPbuf_runWait hb (by rw [startInit_eq]) (by rw [startInit_eq]; exact hb)

end

/-- The wait of INITIALIZE for MON-VER, as it starts (R118). -/
theorem startInit_eq_verPoll (s : State) :
    startInit s =
      { sampled s with
        eState := .awaitingVersionResponse
        pending := .awaitingVersion
        tx := s.tx ++ verPoll
        waitT0 := (sampled s).clk % 2 ^ s.cfg.clockW
        wait := some .initVersion } := by
  rw [startInit_eq, encodeFrame_verPoll]; rfl

/-- A pump is FEED of what RX has ready once the environment has acted (R132). -/
theorem exec_feed_arrived {s : State} (hb : s.parserInBounds = true) :
    exec (.feed s.rxArrive.rx.length) s.rxArrive = .next (pump s) := exec_feed le_rfl hb

theorem rxArrive_cons {s : State} {st : Stim} {rest : List Stim} (hp : s.pumps = st :: rest) :
    s.rxArrive = { s with pumps := rest, rx := s.rx ++ st.rx, clk := s.clk + st.clk } := by
  simp [State.rxArrive, State.stimulate, hp]

theorem rxArrive_nil {s : State} (hp : s.pumps = []) : s.rxArrive = s := by
  simp [State.rxArrive, State.stimulate, Stim.silent, hp]
  rw [← hp]

/-- Settles O59: each operation's `exec_…` lemma gives the start of its wait; an iteration is one of `waitIteration_ok`,
`waitIteration_timeout` and `waitIteration_waits`, and `step_eq_onward`, `step_eq_waitIteration` say how the step goes on. -/
theorem everyWaitFollowsTheLoopOfWaitPending : Obligations.EveryWaitFollowsTheLoopOfWaitPending := by
  refine ⟨fun s hb => ⟨fun hn hbound r => ⟨exec_subscribeStatus_accepted hb hn hbound r,
    exec_subscribeTimeutc_accepted hb hn hbound r⟩, fun hn hbound hs => ?init, exec_setMessageRate hb,
    exec_disableDefaultNmea hb, exec_waitPending hb⟩, fun s w hw hb h0 => ⟨fun st rest hp => ?cons, fun hp => ?nil⟩⟩
  case init => rw [exec_initEngine_accepted hb hn hbound hs, startInit_eq_verPoll]
  case cons =>
    rw [step_eq_onward hw hb hp]
    refine ⟨pump s, ?_, fun h => by rw [waitIteration_ok h], fun h h5 => by rw [waitIteration_timeout h0 h h5],
      fun h h5 => by rw [waitIteration_waits h0 h h5]⟩
    have hfeed := exec_feed_arrived hb
    rwa [rxArrive_cons hp] at hfeed
  case nil =>
    rw [step_eq_waitIteration hw hb hp]
    refine ⟨pump s, ?_, fun h => by rw [waitIteration_ok h], fun h h5 => by rw [waitIteration_timeout h0 h h5],
      fun h h5 => by rw [waitIteration_waits h0 h h5]⟩
    have hfeed := exec_feed_arrived hb
    rwa [rxArrive_nil hp] at hfeed

end Sys2Proof.Machine
end

section
/-! PROOFS. Waits in which nothing arrives (spec/43_session.md R118, R120, R121, R129, R131, R132, spec/60_exceptions.md R151): they go
on below the deadline and time out at it, in every operation; the whole NMEA phase that nothing answers. -/

namespace Sys2Proof.Machine

open Statement

/-! ### A quiet wait -/

section
variable {w : Waiter} {s : State} (hw : s.wait = some w) (hb : s.parserInBounds = true) (hr : s.rx = []) (ht : s.ticks = [])
  (hpe : s.pending ≠ .none) (h0 : s.waitT0 < 2 ^ s.cfg.clockW)
include hw hb hr ht hpe h0

/-- Entries of the environment's store that bring nothing and stay below the deadline only move the clock. -/
theorem step_of_quiet_prefix {before : List Stim} {st : Stim} {rest : List Stim} (hp : s.pumps = before ++ st :: rest)
    (hq : ∀ x ∈ before, x.rx = []) (hlt : waited s + (before.map Stim.clk).sum < 5000) :
    step s = step { s with pumps := st :: rest, clk := s.clk + (before.map Stim.clk).sum } := by
  rw [waited_eq_elapsed h0] at hlt
  have hlen : s.pumps.length + 1 = before.length + ((st :: rest).length + 1) := by
    rw [hp, List.length_append, Nat.add_assoc]
  rw [step_of_wait hw hb, runWait, hlen, drive_add, drive_quiet_prefix hw hr ht hp hq hpe hlt]
  exact (step_of_wait (s := { s with pumps := st :: rest, clk := s.clk + (before.map Stim.clk).sum }) hw hb).symm

/-- A wait in which nothing arrives goes on below the deadline (spec/92_eei_decisions.md D3). -/
theorem step_of_quiet {ms : Nat} (hq : quiet s ms) (hlt : waited s + ms < 5000) :
    step s = .next { s with clk := s.clk + ms, pumps := [] } := by
  obtain ⟨-, -, hsilent, rfl⟩ := hq
  rw [waited_eq_elapsed h0] at hlt
  rw [step_of_wait hw hb, drive_quiet hw hr ht hsilent hpe hlt]

/-- It ends with TIMEOUT once the deadline has passed. -/
theorem step_of_quiet_deadline {d : Nat} {rest : List Stim} (hp : s.pumps = ⟨[], d⟩ :: rest) (h5 : 5000 ≤ waited s + d)
    (hd : waited s + d < 2 ^ s.cfg.clockW) :
    step s = onward (afterWait w .timeout (expired w { s with pumps := rest, clk := s.clk + d })) := by
  have hpump : pump s = { s with pumps := rest, clk := s.clk + d } := pump_quiet hr hp
  have hsampled : sampled (pump s) = { s with pumps := rest, clk := s.clk + d } := by rw [hpump]; exact tick_idle ht
  have hpending : (pump s).pending ≠ .none := by rw [hpump]; exact hpe
  rw [step_eq_onward hw hb hp, waitIteration_timeout h0 hpending (by rwa [hsampled, waited_later h0 hd]), hsampled]

end

section
variable {w : Waiter} {s : State} (hw : s.wait = some w) (hb : s.parserInBounds = true) (hpe : s.pending ≠ .none)
  (h0 : s.waitT0 = s.clk % 2 ^ s.cfg.clockW)
include hw hb hpe h0

/-- The same from the start of the wait, where nothing has elapsed. -/
theorem step_of_start_quiet {ms : Nat} (hq : quiet s ms) (hlt : ms < 5000) :
    step s = .next { s with clk := s.clk + ms, pumps := [] } := by
  have hwidth : s.waitT0 < 2 ^ s.cfg.clockW := by rw [h0]; exact now_lt s
  obtain ⟨hr, ht, -⟩ := id hq
  exact step_of_quiet hw hb hr ht hpe hwidth hq (by rwa [waited_of_start h0, Nat.zero_add])

theorem step_of_start_silent {d : Nat} {rest : List Stim} (hq : silentFor s d rest) :
    step s = onward (afterWait w .timeout (expired w { s with pumps := rest, clk := s.clk + d })) := by
  have hwidth : s.waitT0 < 2 ^ s.cfg.clockW := by rw [h0]; exact now_lt s
  obtain ⟨hr, ht, hp, h5, hd⟩ := hq
  exact step_of_quiet_deadline hw hb hr ht hpe hwidth hp (by rwa [waited_of_start h0, Nat.zero_add])
    (by rwa [waited_of_start h0, Nat.zero_add])

end

/-! ### The starts when no time passes before the start sample -/

theorem sampled_idle {s : State} (ht : s.ticks = []) : sampled s = s := tick_idle ht

theorem requested_idle {s : State} (ht : s.ticks = []) (w : Waiter) (c i r : Byte) :
    requested w c i r s =
      { s with
        pending := .awaitingAck
        tx := s.tx ++ encodeFrame 0x06#8 0x01#8 [c, i, r]
        waitT0 := s.clk % 2 ^ s.cfg.clockW
        wait := some w } := by
  rw [requested, sampled_idle ht]

theorem startInit_idle {s : State} (ht : s.ticks = []) :
    startInit s =
      { s with
        eState := .awaitingVersionResponse
        pending := .awaitingVersion
        tx := s.tx ++ verPoll
        waitT0 := s.clk % 2 ^ s.cfg.clockW
        wait := some .initVersion } := by
  rw [startInit_eq_verPoll, sampled_idle ht]

theorem startWait_idle {s : State} (ht : s.ticks = []) (w : Waiter) :
    startWait w s = { s with waitT0 := s.clk % 2 ^ s.cfg.clockW, wait := some w } := by
  rw [startWait, tick_idle ht]; rfl

/-! ### Below the deadline -/

/-- A CFG-MSG request that nothing answers is still waiting below the deadline. -/
theorem step_requested_quiet {s : State} {ms : Nat} (hb : s.parserInBounds = true) (hq : quiet s ms) (hlt : ms < 5000)
    (w : Waiter) (c i r : Byte) :
    step (requested w c i r s) = .next (stillWaiting s ms w .awaitingAck (encodeFrame 0x06#8 0x01#8 [c, i, r])) := by
  obtain ⟨-, ht, -⟩ := id hq
  rw [requested_idle ht]
  refine step_of_start_quiet (w := w) ?_ ?_ ?_ ?_ ?_ hlt
  exacts [rfl, hb, nofun, rfl, hq]

theorem step_startInit_quiet {s : State} {ms : Nat} (hb : s.parserInBounds = true) (hq : quiet s ms) (hlt : ms < 5000) :
    step (startInit s) =
      .next (stillWaiting { s with eState := .awaitingVersionResponse } ms .initVersion .awaitingVersion verPoll) := by
  obtain ⟨-, ht, -⟩ := id hq
  rw [startInit_idle ht]
  refine step_of_start_quiet (w := .initVersion) ?_ ?_ ?_ ?_ ?_ hlt
  exacts [rfl, hb, nofun, rfl, hq]

theorem step_startWait_quiet {s : State} {ms : Nat} (hb : s.parserInBounds = true) (hq : quiet s ms) (hlt : ms < 5000)
    (hpe : s.pending ≠ .none) (w : Waiter) :
    step (startWait w s) = .next (stillWaiting s ms w s.pending []) := by
  obtain ⟨-, ht, -⟩ := id hq
  rw [startWait_idle ht, stillWaiting, List.append_nil]
  refine step_of_start_quiet (w := w) ?_ ?_ ?_ ?_ ?_ hlt
  exacts [rfl, hb, hpe, rfl, hq]

/-- Settles O47: every operation is a step from the start of its wait, where nothing has elapsed; a wait in progress adds the time that
passes to what has elapsed (`step_of_quiet`). -/
theorem waitGoesOnUntilTheDeadline : Obligations.WaitGoesOnUntilTheDeadline := by
  intro s ms hb hq
  refine ⟨fun hlt => ⟨fun hn hbound r => ⟨?status, ?timeutc⟩, fun hn hbound hs => ?init, fun c i r => ?rate, ?nmea,
    fun hpe => ?waitPending⟩, fun w hw hpe h0 hlt => ?inProgress⟩
  case status => rw [exec_subscribeStatus_accepted hb hn hbound, step_requested_quiet hb hq hlt]
  case timeutc => rw [exec_subscribeTimeutc_accepted hb hn hbound, step_requested_quiet hb hq hlt]
  case init => rw [exec_initEngine_accepted hb hn hbound hs, step_startInit_quiet hb hq hlt]
  case rate => rw [exec_setMessageRate hb, step_requested_quiet hb hq hlt]
  case nmea => rw [exec_disableDefaultNmea hb, step_requested_quiet hb hq hlt]
  case waitPending => rw [exec_waitPending hb, step_startWait_quiet hb hq hlt hpe]
  case inProgress =>
    obtain ⟨hr, ht, -⟩ := id hq
    exact step_of_quiet hw hb hr ht hpe h0 hq hlt

/-! ### Past the deadline -/

/-- A CFG-MSG request that nothing answers times out at the first pump past the deadline. -/
theorem step_requested_silent {s : State} {d : Nat} {rest : List Stim} (hb : s.parserInBounds = true)
    (hq : silentFor s d rest) (w : Waiter) (c i r : Byte) :
    step (requested w c i r s) = onward (afterWait w .timeout (timedOut s d rest w [c, i, r])) := by
  obtain ⟨-, ht, -⟩ := id hq
  rw [requested_idle ht]
  refine step_of_start_silent ?_ ?_ ?_ ?_ ?_
  exacts [rfl, hb, nofun, rfl, hq]

/-- Settles O43: a rate request that times out returns TIMEOUT to the host, SET_MESSAGE_RATE to the engine. -/
theorem unansweredRateRequestTimesOut : Obligations.UnansweredRateRequestTimesOut := by
  intro s d rest hb hq
  refine ⟨fun hn hbound r => ?_, fun c i r => ?_⟩
  · have hhost : ∀ w payload, (timedOut s d rest w payload).issuer = .host := fun _ _ => issuer_of_idle hn
    constructor
    · rw [exec_subscribeStatus_accepted hb hn hbound, step_requested_silent hb hq, onward_of_idle rfl, afterWait, hhost]
    · rw [exec_subscribeTimeutc_accepted hb hn hbound, step_requested_silent hb hq, onward_of_idle rfl, afterWait, hhost]
  · rw [exec_setMessageRate hb, step_requested_silent hb hq, onward_of_idle rfl, afterWait]

/-- Settles O46: with nothing pending the first pending check ends the wait (`runWait_waitPending`), otherwise the deadline. -/
theorem waitPendingReturnsOkOrTimeout : Obligations.WaitPendingReturnsOkOrTimeout := by
  intro s d rest hb hq
  obtain ⟨hr, ht, hp, -⟩ := id hq
  rw [exec_waitPending hb]
  refine ⟨fun hpe => ?_, fun hpe => ?_⟩
  · rw [step_of_wait (s := startWait .waitPending s) rfl hb, runWait_waitPending hpe,
      pump_quiet (s := startWait .waitPending s) hr hp, startWait_idle ht]
    rfl
  · rw [startWait_idle ht]
    refine step_of_start_silent (w := .waitPending) ?_ ?_ ?_ ?_ ?_
    exacts [rfl, hb, hpe, rfl, hq]

/-- Settles O41: the wait for MON-VER times out, and INITIALIZE returns TIMEOUT with E_STATE InitializationFailed. -/
theorem unansweredInitializeFails : Obligations.UnansweredInitializeFails := by
  rintro s d rest ⟨hn, hbound, hb⟩ hs hq
  obtain ⟨-, ht, -⟩ := id hq
  rw [exec_initEngine_accepted hb hn hbound hs, startInit_idle ht, ← issuer_of_idle hn]
  refine step_of_start_silent (w := .initVersion) ?_ ?_ ?_ ?_ ?_
  exacts [rfl, hb, nofun, rfl, hq]

/-! ### The NMEA phase -/

/-- The six CFG-MSG frames are those of R77, written out. -/
theorem encodeFrame_nmea :
    [Nmea.gga, .gll, .gsa, .gsv, .rmc, .vtg].flatMap (fun k => encodeFrame 0x06#8 0x01#8 [0xF0#8, k.id, 0x00#8]) =
      nmeaFrames := by decide

/-- The NMEA phase of DISABLE_DEFAULT_NMEA or of INITIALIZE (R131): the wait of one sentence is followed by the next one's. -/
def NmeaPhase (phase : Nmea → Waiter) : Prop :=
  ∀ k k' r s, k.following = some k' → afterWait (phase k) r s = requested (phase k') 0xF0#8 k'.id 0x00#8 s

theorem nmeaPhase_disableNmea : NmeaPhase .disableNmea := by
  intro k k' r s hk
  cases k <;> cases hk <;> rfl

theorem nmeaPhase_initNmea : NmeaPhase .initNmea := by
  intro k k' r s hk
  cases k <;> cases hk <;> rfl

/-- The state after an NMEA phase that nothing answers: six frames sent, six timeouts (R131, R151). -/
def nmeaTimedOut (phase : Nmea → Waiter) (s : State) (d0 d1 d2 d3 d4 d5 : Nat) (rest : List Stim) : State :=
  { s with
    pending := .none
    wait := none
    waitT0 := (s.clk + d0 + d1 + d2 + d3 + d4) % 2 ^ s.cfg.clockW
    clk := s.clk + d0 + d1 + d2 + d3 + d4 + d5
    pumps := rest
    tx := s.tx ++ nmeaFrames
    events := s.events ++ [.timeout (phase .gga), .timeout (phase .gll), .timeout (phase .gsa), .timeout (phase .gsv),
      .timeout (phase .rmc), .timeout (phase .vtg)] }

/-- Nothing arrives, and before each of the coming pumps a time passes that is long enough for a timeout. -/
def UnansweredFor (s : State) (ds : List Nat) (rest : List Stim) : Prop :=
  s.parserInBounds = true ∧ s.rx = [] ∧ s.ticks = [] ∧ s.pumps = ds.map (Stim.mk []) ++ rest ∧
    ∀ d ∈ ds, 5000 ≤ d ∧ d < 2 ^ s.cfg.clockW

/-- A request that times out in the first of these pumps leaves the others to come. -/
theorem UnansweredFor.step_requested {s : State} {d : Nat} {ds : List Nat} {rest : List Stim}
    (h : UnansweredFor s (d :: ds) rest) (w : Waiter) (c i r : Byte) :
    ∃ rest', step (requested w c i r s) = onward (afterWait w .timeout (timedOut s d rest' w [c, i, r])) ∧
      UnansweredFor (timedOut s d rest' w [c, i, r]) ds rest ∧ rest' = ds.map (Stim.mk []) ++ rest := by
  obtain ⟨hb, hr, ht, hp, hd⟩ := h
  obtain ⟨⟨h5, hturn⟩, hds⟩ := List.forall_mem_cons.mp hd
  exact ⟨_, step_requested_silent hb ⟨hr, ht, hp, h5, hturn⟩ w c i r, ⟨hb, hr, ht, rfl, hds⟩, rfl⟩

/-- One sentence that nothing answers, and the request of the next one. -/
theorem NmeaPhase.step_unanswered {phase : Nmea → Waiter} (hphase : NmeaPhase phase) {k k' : Nmea}
    (hk : k.following = some k') {s : State} {d : Nat} {ds : List Nat} {rest : List Stim}
    (h : UnansweredFor s (d :: ds) rest) :
    ∃ rest', step (requested (phase k) 0xF0#8 k.id 0x00#8 s) =
        step (requested (phase k') 0xF0#8 k'.id 0x00#8 (timedOut s d rest' (phase k) [0xF0#8, k.id, 0x00#8])) ∧
      UnansweredFor (timedOut s d rest' (phase k) [0xF0#8, k.id, 0x00#8]) ds rest := by
  obtain ⟨rest', hstep, hnext, -⟩ := h.step_requested (phase k) 0xF0#8 k.id 0x00#8
  exact ⟨rest', by rw [hstep, hphase k k' _ _ hk, onward_requested], hnext⟩

/-- All six: each wait times out, and the next request is sent. -/
theorem NmeaPhase.step_all_unanswered {phase : Nmea → Waiter} (hphase : NmeaPhase phase) {s : State}
    {d0 d1 d2 d3 d4 d5 : Nat} {rest : List Stim} (h : UnansweredFor s [d0, d1, d2, d3, d4, d5] rest) :
    step (requested (phase .gga) 0xF0#8 0x00#8 0x00#8 s) =
      onward (afterWait (phase .vtg) .timeout (nmeaTimedOut phase s d0 d1 d2 d3 d4 d5 rest)) := by
  obtain ⟨_, hgga, h⟩ := hphase.step_unanswered (k := .gga) rfl h
  obtain ⟨_, hgll, h⟩ := hphase.step_unanswered (k := .gll) rfl h
  obtain ⟨_, hgsa, h⟩ := hphase.step_unanswered (k := .gsa) rfl h
  obtain ⟨_, hgsv, h⟩ := hphase.step_unanswered (k := .gsv) rfl h
  obtain ⟨_, hrmc, h⟩ := hphase.step_unanswered (k := .rmc) rfl h
  obtain ⟨_, hvtg, -, rfl⟩ := h.step_requested (phase .vtg) 0xF0#8 Nmea.vtg.id 0x00#8
  refine hgga.trans ?_
  rw [hgll, hgsa, hgsv, hrmc, hvtg, nmeaTimedOut, ← encodeFrame_nmea]
  simp [timedOut]

/-- Settles O45: DISABLE_DEFAULT_NMEA is its NMEA phase, and returns nothing after the last wait. -/
theorem unansweredNmeaPhaseSendsAllSixFrames : Obligations.UnansweredNmeaPhaseSendsAllSixFrames := by
  intro s d0 d1 d2 d3 d4 d5 rest hb hr ht hp hd
  rw [exec_disableDefaultNmea hb, nmeaPhase_disableNmea.step_all_unanswered ⟨hb, hr, ht, hp, hd⟩, afterWait, onward_of_idle rfl]
  rfl

end Sys2Proof.Machine
end

section
/-! PROOFS. Waits that a reply ends (spec/43_session.md R118, R120, R121, R129, R131, R132, spec/70_reset_and_hazards.md R173, R174): what
a pump does with one frame that clears E_PENDING, said once (`ReplyComing.after_pump`), and what follows in each operation. -/

namespace Sys2Proof.Machine

open Statement

/-! ### Before and after a wait that a reply ends -/

/-- At a frame boundary, the next pump brings `reply`, one correct frame that clears E_PENDING, and nothing else. -/
def ReplyComing (s : State) (reply : Stim) (rest : List Stim) : Prop :=
  s.parser.state = .waitHeader1 ∧ Memory.wf s.parser.pbuf = true ∧ s.rx = [] ∧ s.pumps = reply :: rest ∧
    isReply s.cfg.maxPayload reply

/-- No wait and no request is left, and the parser is ready for the next frame; the environment still has `rest` in store. -/
structure Settled (t : State) (rest : List Stim) : Prop where
  pending : t.pending = .none
  wait : t.wait = none
  rx : t.rx = []
  pumps : t.pumps = rest
  atBoundary : t.parser.state = .waitHeader1
  pbufCanonical : Memory.wf t.parser.pbuf = true

/-- Without an observer: from `s` to `t` only `bytes` went out and only `timeouts` were recorded. -/
structure OnlySent (s t : State) (bytes : List Byte) (timeouts : List Event) : Prop where
  obs : t.obs = none
  tx : t.tx = s.tx ++ bytes
  notes : t.notes = s.notes
  st : t.st = s.st
  tu : t.tu = s.tu
  policy : t.policy = s.policy
  responses : t.responses = s.responses
  events : t.events = s.events ++ timeouts

/-- What requests and their waits leave of the session registers and of the ports. -/
structure RequestFrame (s t : State) (bytes : List Byte) (timeouts : List Event) : Prop where
  cfg : t.cfg = s.cfg
  bound : t.bound = s.bound
  eState : t.eState = s.eState
  inNotify : s.inNotify = false → t.inNotify = false
  ticks : s.ticks = [] → t.ticks = []
  unobserved : s.obs = none → OnlySent s t bytes timeouts

theorem OnlySent.trans {s t u : State} {a b : List Byte} {d e : List Event} (h : OnlySent s t a d) (k : OnlySent t u b e) :
    OnlySent s u (a ++ b) (d ++ e) where
  obs := k.obs
  tx := by rw [k.tx, h.tx, List.append_assoc]
  notes := k.notes.trans h.notes
  st := k.st.trans h.st
  tu := k.tu.trans h.tu
  policy := k.policy.trans h.policy
  responses := k.responses.trans h.responses
  events := by rw [k.events, h.events, List.append_assoc]

theorem RequestFrame.trans {s t u : State} {a b : List Byte} {d e : List Event} (h : RequestFrame s t a d)
    (k : RequestFrame t u b e) : RequestFrame s u (a ++ b) (d ++ e) where
  cfg := k.cfg.trans h.cfg
  bound := k.bound.trans h.bound
  eState := k.eState.trans h.eState
  inNotify := fun hn => k.inNotify (h.inNotify hn)
  ticks := fun ht => k.ticks (h.ticks ht)
  unobserved := fun hobs => (h.unobserved hobs).trans (k.unobserved (h.unobserved hobs).obs)

theorem Settled.replyComing {t : State} {reply : Stim} {rest : List Stim} (h : Settled t (reply :: rest))
    (hreply : isReply t.cfg.maxPayload reply) : ReplyComing t reply rest :=
  ⟨h.atBoundary, h.pbufCanonical, h.rx, h.pumps, hreply⟩

theorem parserInBounds_of_waitHeader1 {s : State} (h : s.parser.state = .waitHeader1) : s.parserInBounds = true :=
  parserInBounds_of_header (by simp [h])

theorem ReplyComing.parserInBounds {s : State} {reply : Stim} {rest : List Stim} (h : ReplyComing s reply rest) :
    s.parserInBounds = true := by
  obtain ⟨hs, -⟩ := h
  exact parserInBounds_of_waitHeader1 hs

/-! ### A pump that brings a reply -/

/-- The handlers of the frames that clear E_PENDING write it and, for MON-VER, VER_*, and nothing else (spec/20_memory.md R57). -/
theorem handle_of_clearsPending {s : State} (h : clearsPending s.parser.cls s.parser.id) :
    ∃ ver, handle s = { s with pending := .none, ver := ver } := by
  unfold handle
  rcases h with ⟨hc, hi⟩ | ⟨hc, hi⟩ | ⟨hc, hi⟩
  · exact ⟨s.ver, by rw [hc, hi]; rfl⟩
  · exact ⟨s.ver, by rw [hc, hi]; rfl⟩
  · exact ⟨s.versionFields, by rw [hc, hi]; rfl⟩

/-- A pump that brings a reply latches, dispatches and releases it (spec/41_frame_parser.md R97, R101). -/
theorem ReplyComing.pump_eq {s : State} {reply : Stim} {rest : List Stim} (h : ReplyComing s reply rest) :
    ∃ cls id p ckA ckB, clearsPending cls id ∧
      pump s = released (dispatchFrame (s.rxArrive.latched cls id p ckA ckB [])) := by
  obtain ⟨hs, hw, hr, hp, cls, id, p, hclears, hmax, hrx⟩ := h
  generalize hck : checksum cls id (BitVec.ofNat 16 p.length) p = ck
  have harrived : s.rxArrive.rx = wireFrame cls id p ck.1 ck.2 := by simp [hr, hp, hrx, encodeFrame, hck]
  refine ⟨cls, id, p, ck.1, ck.2, hclears, ?_⟩
  rw [pump, harrived, wireFrame_length, feed_wireFrame (s := s.rxArrive) (rest := []) hs hmax (by rw [harrived, List.append_nil]),
    complete_of_valid ((latched_validate (s := s.rxArrive) hw (hmax.trans s.cfg.maxPayload_le) ..).mpr (.inr hck))]

/-- What such a pump does, once the wait is left. -/
theorem ReplyComing.after_pump {s : State} {reply : Stim} {rest : List Stim} (h : ReplyComing s reply rest) :
    RequestFrame s { pump s with wait := none } [] [] ∧ Settled { pump s with wait := none } rest := by
  obtain ⟨hframe, hempty⟩ := pump_frame s
  obtain ⟨cls, id, p, ckA, ckB, hclears, hpump⟩ := h.pump_eq
  obtain ⟨-, hw, -, hp, -⟩ := h
  generalize hl : s.rxArrive.latched cls id p ckA ckB [] = latched at hpump
  obtain ⟨ver, hhandle⟩ := handle_of_clearsPending (s := latched) (by rw [← hl]; exact hclears)
  obtain ⟨-, hparser, -, hpending, -⟩ := notify_frame (handle latched)
  refine ⟨⟨hframe.cfg, hframe.bound, hframe.eState, fun hn => hframe.inNotify.elim (·.trans hn) fun h => h,
    fun ht => (hframe.silentClock ht).1, fun hobs => ?unobserved⟩, ⟨?pending, rfl, hempty, ?pumps, ?atBoundary, ?pbuf⟩⟩
  case unobserved =>
    have hquiet : dispatchFrame latched = handle latched := by
      rw [dispatchFrame, notify, hhandle, show latched.obs = none by rw [← hl]; exact hobs]
    rw [hpump, hquiet, hhandle, ← hl]
    exact ⟨hobs, (List.append_nil _).symm, rfl, rfl, rfl, rfl, rfl, (List.append_nil _).symm⟩
  case pending => rw [hpump]; exact hpending.trans (by rw [hhandle])
  case pumps => exact hframe.pumps.trans (by rw [State.rxArrive_pumps, hp]; rfl)
  case atBoundary => rw [hpump]; rfl
  case pbuf =>
    rw [hpump]
    show Memory.wf (notify (handle latched)).parser.pbuf = true
    rw [hparser, hhandle, ← hl]
    exact Memory.wf_writeBytes hw 0 p

/-- A step of a wait whose next pump brings a reply: the wait ends with OK. -/
theorem ReplyComing.step_eq {s : State} {reply : Stim} {rest : List Stim} (h : ReplyComing s reply rest) {w : Waiter}
    (hwait : s.wait = some w) : step s = onward (afterWait w .ok { pump s with wait := none }) := by
  obtain ⟨-, -, -, hp, -⟩ := id h
  have hpending : (pump s).pending = .none := h.after_pump.2.pending
  rw [step_eq_onward hwait h.parserInBounds hp, waitIteration_ok hpending]

/-! ### A reply or the deadline in a wait in progress -/

/-- Settles O60: the quiet pumps only move the clock (`step_of_quiet_prefix`); the next one brings a reply (`ReplyComing.step_eq`) or the
deadline (`step_of_quiet_deadline`). -/
theorem aReplyOrTheDeadlineEndsAWaitInProgress : Obligations.AReplyOrTheDeadlineEndsAWaitInProgress := by
  intro s w before st rest hwait hpe h0 hr ht hp hquiet hlt
  have hlater := waited_later h0 (hlt.trans (timeoutMs_lt_turn s.cfg)) (st :: rest)
  have hprefix := fun hb : s.parserInBounds = true => step_of_quiet_prefix hwait hb hr ht hpe h0 hp hquiet hlt
  generalize hu : ({ s with pumps := st :: rest, clk := s.clk + (before.map Stim.clk).sum } : State) = u at hprefix hlater
  refine ⟨fun hs hw hreply => ?reply, fun hb hst h5 hd => ?deadline⟩
  case reply =>
    have hcoming : ReplyComing u st rest := by subst hu; exact ⟨hs, hw, hr, rfl, hreply⟩
    obtain ⟨hframe, hsettled⟩ := hcoming.after_pump
    obtain ⟨hpump, -⟩ := pump_frame u
    refine ⟨{ pump u with wait := none }, hsettled.pending, rfl, hsettled.rx, hsettled.pumps, ?_⟩
    rw [hprefix (parserInBounds_of_waitHeader1 hs), hcoming.step_eq (by subst hu; exact hwait)]
    subst hu
    refine ⟨hframe.ticks ht, hframe.cfg, (hpump.silentClock ht).2, hpump.waitT0, hframe.eState, hframe.bound,
      hsettled.atBoundary, fun hobs => ?_, rfl⟩
    obtain ⟨hobs', htx, hnotes, hst, htu, hpolicy, hresponses, hevents⟩ := hframe.unobserved hobs
    exact ⟨hobs', htx.trans (List.append_nil _), hnotes, hst, htu, hpolicy, hresponses, hevents.trans (List.append_nil _)⟩
  case deadline =>
    rw [hprefix hb]
    rw [← hlater] at h5 hd
    subst hu
    refine step_of_quiet_deadline (s := { s with pumps := st :: rest, clk := _ }) hwait hb hr ht hpe h0 (d := st.clk) ?_ h5 hd
    rw [← hst]

/-! ### Requests that are answered -/

theorem sampled_ticks {s : State} (ht : s.ticks = []) : (sampled s).ticks = [] := by rw [sampled_idle ht, ht]

theorem requestFrame_requested (w : Waiter) (c i r : Byte) (s : State) :
    RequestFrame s (requested w c i r s) (encodeFrame 0x06#8 0x01#8 [c, i, r]) [] :=
  ⟨rfl, rfl, rfl, id, sampled_ticks,
    fun hobs => ⟨hobs, rfl, rfl, rfl, rfl, rfl, rfl, (List.append_nil _).symm⟩⟩

theorem requestFrame_startWait (w : Waiter) (s : State) : RequestFrame s (startWait w s) [] [] :=
  ⟨rfl, rfl, rfl, id, sampled_ticks,
    fun hobs => ⟨hobs, (List.append_nil _).symm, rfl, rfl, rfl, rfl, rfl, (List.append_nil _).symm⟩⟩

theorem requestFrame_startInit (s : State) :
    RequestFrame { s with eState := .awaitingVersionResponse } (startInit s) verPoll [] := by
  rw [startInit_eq_verPoll]
  exact ⟨rfl, rfl, rfl, id, fun ht => sampled_ticks (s := s) ht,
    fun hobs => ⟨hobs, rfl, rfl, rfl, rfl, rfl, rfl, (List.append_nil _).symm⟩⟩

/-- A wait that starts with a reply coming ends with OK, whatever it was started with. -/
theorem ReplyComing.step_of_start {s t : State} {reply : Stim} {rest : List Stim} (h : ReplyComing t reply rest) {w : Waiter}
    (hwait : t.wait = some w) {bytes : List Byte} (hstart : RequestFrame s t bytes []) :
    ∃ u, step t = onward (afterWait w .ok u) ∧ RequestFrame s u bytes [] ∧ Settled u rest := by
  obtain ⟨hframe, hsettled⟩ := h.after_pump
  have hboth := hstart.trans hframe
  rw [List.append_nil] at hboth
  exact ⟨_, h.step_eq hwait, hboth, hsettled⟩

theorem ReplyComing.step_requested {s : State} {reply : Stim} {rest : List Stim} (h : ReplyComing s reply rest) (w : Waiter)
    (c i r : Byte) :
    ∃ u, step (requested w c i r s) = onward (afterWait w .ok u) ∧
      RequestFrame s u (encodeFrame 0x06#8 0x01#8 [c, i, r]) [] ∧ Settled u rest :=
  ReplyComing.step_of_start (t := requested w c i r s) h rfl (requestFrame_requested ..)

/-- An operation that only returns its wait's result, to `who`, is answered. -/
theorem answered_of_settled {s u : State} {rest : List Stim} {bytes : List Byte} {w : Waiter} {who : Issuer}
    (hframe : RequestFrame s u bytes []) (hsettled : Settled u rest)
    (hreturns : afterWait w .ok u = returned who .ok .none u) :
    ∃ t, onward (afterWait w .ok u) = .next t ∧ answered s t rest who bytes := by
  refine ⟨returned who .ok .none u, by rw [hreturns]; exact onward_of_idle hsettled.wait, by simp [returned], hsettled.pending,
    hsettled.wait, hframe.eState, hframe.bound, hsettled.pumps, hsettled.rx, hsettled.atBoundary, fun hobs => ?_⟩
  obtain ⟨-, htx, hnotes, hst, htu, hpolicy, -, -⟩ := hframe.unobserved hobs
  exact ⟨htx, hnotes, hst, htu, hpolicy⟩

/-- Settles O44: each operation is a step from the start of its wait, which the reply ends; the SUBSCRIBE commands return to the host,
the internal operations to the engine. -/
theorem anyClearingFrameAnswersARateRequest : Obligations.AnyClearingFrameAnswersARateRequest := by
  intro s reply rest hs hw hr hp hreply
  have hcoming : ReplyComing s reply rest := ⟨hs, hw, hr, hp, hreply⟩
  have hb := hcoming.parserInBounds
  refine ⟨fun hn hbound r => ⟨?status, ?timeutc⟩, fun c i r => ?rate, ?waitPending⟩
  case status =>
    obtain ⟨u, hstep, hframe, hsettled⟩ := hcoming.step_requested .subscribeStatus 0x01#8 0x03#8 r
    rw [exec_subscribeStatus_accepted hb hn hbound, hstep]
    exact answered_of_settled hframe hsettled (by rw [afterWait, issuer_of_idle (hframe.inNotify hn)])
  case timeutc =>
    obtain ⟨u, hstep, hframe, hsettled⟩ := hcoming.step_requested .subscribeTimeutc 0x01#8 0x21#8 r
    rw [exec_subscribeTimeutc_accepted hb hn hbound, hstep]
    exact answered_of_settled hframe hsettled (by rw [afterWait, issuer_of_idle (hframe.inNotify hn)])
  case rate =>
    obtain ⟨u, hstep, hframe, hsettled⟩ := hcoming.step_requested .setMessageRate c i r
    rw [exec_setMessageRate hb, hstep]
    exact answered_of_settled hframe hsettled rfl
  case waitPending =>
    obtain ⟨u, hstep, hframe, hsettled⟩ :=
      ReplyComing.step_of_start (t := startWait .waitPending s) hcoming rfl (requestFrame_startWait ..)
    rw [exec_waitPending hb, hstep]
    exact answered_of_settled hframe hsettled rfl

/-! ### INITIALIZE -/

/-- A reply ends the wait for MON-VER, and the NMEA phase begins (R118, R173). -/
theorem exec_initEngine_reply {s : State} {reply : Stim} {rest : List Stim} (hn : s.inNotify = false)
    (hbound : s.bound = true) (hs : s.eState ≠ .initialized) (h : ReplyComing s reply rest) :
    ∃ u, exec .initEngine s = step (requested (.initNmea .gga) 0xF0#8 0x00#8 0x00#8 u) ∧
      RequestFrame { s with eState := .awaitingVersionResponse } u verPoll [] ∧ Settled u rest := by
  obtain ⟨u, hstep, hframe, hsettled⟩ := ReplyComing.step_of_start (t := startInit s) (w := .initVersion)
    (by rw [startInit_eq]; exact h) (by rw [startInit_eq]) (requestFrame_startInit s)
  refine ⟨u, ?_, hframe, hsettled⟩
  rw [exec_initEngine_accepted h.parserInBounds hn hbound hs, hstep, afterWait, if_neg nofun, onward_requested]

/-- One sentence whose wait a reply ends, and the request of the next one. -/
theorem NmeaPhase.step_reply {phase : Nmea → Waiter} (hphase : NmeaPhase phase) {k k' : Nmea}
    (hk : k.following = some k') {s : State} {reply : Stim} {rest : List Stim} (h : ReplyComing s reply rest) :
    ∃ u, step (requested (phase k) 0xF0#8 k.id 0x00#8 s) = step (requested (phase k') 0xF0#8 k'.id 0x00#8 u) ∧
      RequestFrame s u (encodeFrame 0x06#8 0x01#8 [0xF0#8, k.id, 0x00#8]) [] ∧ Settled u rest := by
  obtain ⟨u, hstep, hframe, hsettled⟩ := h.step_requested (phase k) 0xF0#8 k.id 0x00#8
  exact ⟨u, by rw [hstep, hphase k k' _ _ hk, onward_requested], hframe, hsettled⟩

/-- All six: each wait is ended by a reply, and the next request is sent (R131). -/
theorem NmeaPhase.step_all_replies {phase : Nmea → Waiter} (hphase : NmeaPhase phase) {s : State}
    {r1 r2 r3 r4 r5 r6 : Stim} {rest : List Stim} (h : Settled s (r1 :: r2 :: r3 :: r4 :: r5 :: r6 :: rest))
    (hreply : ∀ r ∈ [r1, r2, r3, r4, r5, r6], isReply s.cfg.maxPayload r) :
    ∃ u, step (requested (phase .gga) 0xF0#8 0x00#8 0x00#8 s) = onward (afterWait (phase .vtg) .ok u) ∧
      RequestFrame s u nmeaFrames [] ∧ Settled u rest := by
  have hcoming : ∀ {t : State} {bytes : List Byte} {r : Stim} {q : List Stim}, RequestFrame s t bytes [] →
      Settled t (r :: q) → r ∈ [r1, r2, r3, r4, r5, r6] → ReplyComing t r q := fun hframe hsettled hmem =>
    hsettled.replyComing (by rw [hframe.cfg]; exact hreply _ hmem)
  obtain ⟨_, hgga, f, h⟩ := hphase.step_reply (k := .gga) rfl (h.replyComing (hreply _ (by simp)))
  obtain ⟨_, hgll, f', h⟩ := hphase.step_reply (k := .gll) rfl (hcoming f h (by simp))
  replace f := f.trans f'
  obtain ⟨_, hgsa, f', h⟩ := hphase.step_reply (k := .gsa) rfl (hcoming f h (by simp))
  replace f := f.trans f'
  obtain ⟨_, hgsv, f', h⟩ := hphase.step_reply (k := .gsv) rfl (hcoming f h (by simp))
  replace f := f.trans f'
  obtain ⟨_, hrmc, f', h⟩ := hphase.step_reply (k := .rmc) rfl (hcoming f h (by simp))
  replace f := f.trans f'
  obtain ⟨u, hvtg, f', h⟩ := (hcoming f h (by simp)).step_requested (phase .vtg) 0xF0#8 Nmea.vtg.id 0x00#8
  refine ⟨u, hgga.trans ?_, ?_, h⟩
  · rw [hgll, hgsa, hgsv, hrmc, hvtg]
  · rw [← encodeFrame_nmea]
    simpa using f.trans f'

/-- After the last NMEA wait INITIALIZE returns OK with E_STATE Initialized, whatever the wait's result (R118,
spec/92_eei_decisions.md D15). -/
theorem initialized_of_settled {s u : State} {rest : List Stim} {timeouts : List Event} (hn : s.inNotify = false)
    (hframe : RequestFrame { s with eState := .awaitingVersionResponse } u (verPoll ++ nmeaFrames) timeouts)
    (hsettled : Settled u rest) (htimeouts : timeouts <:+ u.events) (r : ResultCode) :
    ∃ t, onward (afterWait (.initNmea .vtg) r u) = .next t ∧ initialized s t rest timeouts := by
  have hidle : u.inNotify = false := hframe.inNotify hn
  refine ⟨_, onward_of_idle hsettled.wait, rfl, hsettled.pending, hsettled.wait, hsettled.pumps, hsettled.rx,
    hsettled.atBoundary, hframe.bound, hidle.trans hn.symm, hframe.cfg, ?_, htimeouts, fun hobs => ?_⟩
  · simp [afterWait, returned, issuer_of_idle hidle]
  · obtain ⟨hobs', htx, hnotes, hst, htu, hpolicy, -, hevents⟩ := hframe.unobserved hobs
    exact ⟨by rw [List.append_assoc]; exact htx, hnotes, hst, htu, hpolicy, hobs', hevents⟩

/-- An NMEA phase that nothing answers, as a frame (R131, R151). -/
theorem requestFrame_nmeaTimedOut (phase : Nmea → Waiter) (s : State) (d0 d1 d2 d3 d4 d5 : Nat) (rest : List Stim) :
    RequestFrame s (nmeaTimedOut phase s d0 d1 d2 d3 d4 d5 rest) nmeaFrames
      [.timeout (phase .gga), .timeout (phase .gll), .timeout (phase .gsa), .timeout (phase .gsv), .timeout (phase .rmc),
        .timeout (phase .vtg)] :=
  ⟨rfl, rfl, rfl, id, id, fun hobs => ⟨hobs, rfl, rfl, rfl, rfl, rfl, rfl, rfl⟩⟩

/-- Settles O42: a reply ends the wait for MON-VER, and the NMEA phase follows, all answered (`NmeaPhase.step_all_replies`) or all timed
out (`NmeaPhase.step_all_unanswered`). -/
theorem answeredInitializeSucceeds : Obligations.AnsweredInitializeSucceeds := by
  rintro s r0 rest ⟨hn, hbound, -⟩ hs hstate hw hr hreply
  have hversion := fun {q : List Stim} (hp : s.pumps = r0 :: q) =>
    exec_initEngine_reply hn hbound hs ⟨hstate, hw, hr, hp, hreply⟩
  refine ⟨fun r1 r2 r3 r4 r5 r6 hp hreplies => ?replies, fun d1 d2 d3 d4 d5 d6 ht hp hd => ?unanswered⟩
  case replies =>
    obtain ⟨v, hexec, hframe, hsettled⟩ := hversion hp
    obtain ⟨u, hstep, hframe', hsettled'⟩ :=
      nmeaPhase_initNmea.step_all_replies hsettled (by rw [hframe.cfg]; exact hreplies)
    rw [hexec, hstep]
    exact initialized_of_settled hn (hframe.trans hframe') hsettled' List.nil_suffix _
  case unanswered =>
    obtain ⟨v, hexec, hframe, hsettled⟩ := hversion hp
    have hbounds : v.parserInBounds = true := parserInBounds_of_waitHeader1 hsettled.atBoundary
    have hquiet : UnansweredFor v [d1, d2, d3, d4, d5, d6] rest :=
      ⟨hbounds, hsettled.rx, hframe.ticks ht, hsettled.pumps, by rw [hframe.cfg]; exact hd⟩
    rw [hexec, nmeaPhase_initNmea.step_all_unanswered hquiet]
    exact initialized_of_settled hn (hframe.trans (requestFrame_nmeaTimedOut ..))
      ⟨rfl, rfl, hsettled.rx, rfl, hsettled.atBoundary, hsettled.pbufCanonical⟩ (List.suffix_append ..) _

end Sys2Proof.Machine
end

section
/-! PROOFS. Handlers, DISPATCH and Notify (spec/44_dispatch.md R135 to R145): what the field extractors read of the payload in PBUF,
what each handler therefore does, and from it what each received frame does from a frame boundary. -/

namespace Sys2Proof.Machine

open Statement

/-! ### The payload, byte by byte -/

@[simp] theorem payload_length (s : State) : s.payload.length = s.parser.len.toNat := Memory.readBytes_length ..

/-- Below P_LEN, PBUF reads as the payload does (spec/10_state.md R23). -/
theorem read_pbuf {s : State} {k : Nat} (hk : k < s.parser.len.toNat) :
    Memory.read s.parser.pbuf k = byteAt s.payload k := by
  have hk' : k < s.payload.length := by rwa [payload_length]
  rw [byteAt, List.getD_eq_getElem _ _ hk']
  simp only [State.payload, Memory.readBytes_getElem, Nat.zero_add]

/-- The payload is the P_LEN bytes that PBUF reads as. -/
theorem payload_eq {s : State} {p : List Byte} (hlen : p.length = s.parser.len.toNat)
    (hread : ∀ k, k < p.length → Memory.read s.parser.pbuf k = byteAt p k) : s.payload = p := by
  rw [State.payload, ← hlen]
  exact Memory.readBytes_eq fun k hk => by rw [Nat.zero_add, hread k hk, byteAt, List.getD_eq_getElem]

/-! ### Field extractors (spec/42_codec.md R104 to R109) -/

/-- Concatenation as a number: the right operand is the less significant. -/
theorem ofNat_add_shift {v w : Nat} (x : BitVec v) (y : BitVec w) :
    BitVec.ofNat (v + w) (y.toNat + 2 ^ w * x.toNat) = x ++ y := by
  have hcat : (x ++ y).toNat = y.toNat + 2 ^ w * x.toNat := by
    rw [BitVec.toNat_append, ← Nat.shiftLeft_add_eq_or_of_lt y.isLt, Nat.shiftLeft_eq, Nat.mul_comm, Nat.add_comm]
  rw [← hcat, BitVec.ofNat_toNat, BitVec.setWidth_eq]

section
variable {s : State} {off : Nat}

theorem u1_eq_byteAt (h : off < s.parser.len.toNat) : s.u1 off = byteAt s.payload off := by
  rw [← read_pbuf h]; simp [State.u1, memRead]

theorem u2_eq_field16 (h : off + 1 < s.parser.len.toNat) : s.u2 off = field16 s.payload off := by
  rw [field16, ← read_pbuf h, ← read_pbuf (Nat.lt_of_succ_lt h), ← ofNat_add_shift]; rfl

/-- Two 16-bit reads make a 32-bit read (spec/20_memory.md R43). -/
theorem u4_eq_u2 (s : State) (off : Nat) : s.u4 off = s.u2 (off + 2) ++ s.u2 off := by
  have hlow : memRead s.parser.pbuf off 2 < 2 ^ 16 := memRead_lt ..
  have hhigh : memRead s.parser.pbuf (off + 2) 2 < 2 ^ 16 := memRead_lt ..
  rw [← ofNat_add_shift, State.u4, State.u2, State.u2, BitVec.toNat_ofNat, BitVec.toNat_ofNat,
    Nat.mod_eq_of_lt hlow, Nat.mod_eq_of_lt hhigh]
  congr 1
  simp only [memRead, Nat.add_assoc, Nat.reduceAdd]
  omega

theorem u4_eq_field32 (h : off + 3 < s.parser.len.toNat) : s.u4 off = field32 s.payload off := by
  rw [u4_eq_u2, u2_eq_field16 h, u2_eq_field16 (by omega), field32]

theorem flag_eq_byteAt (h : off < s.parser.len.toNat) (bit : Nat) : s.flag off bit = (byteAt s.payload off).getLsbD bit := by
  rw [State.flag, read_pbuf h]

end

/-- A string field from an offset that the payload has: its byte there, unless that ends the string. -/
theorem fieldString_succ {p : List Byte} {off : Nat} (h : off < p.length) (n : Nat) :
    fieldString p off (n + 1) = if byteAt p off = 0#8 then [] else byteAt p off :: fieldString p (off + 1) n := by
  rw [byteAt, List.getD_eq_getElem _ _ h, fieldString, List.drop_eq_getElem_cons h, List.take_succ_cons, List.takeWhile_cons]
  by_cases hc : p[off] = 0#8 <;> simp [hc, fieldString]

/-- A string field behind the payload's end is empty (spec decision D9). -/
theorem fieldString_of_length_le {p : List Byte} {off : Nat} (h : p.length ≤ off) (n : Nat) : fieldString p off n = [] := by
  simp [fieldString, List.drop_eq_nil_of_le h]

/-- `string` reads a string field of the payload (R109). -/
theorem string_eq_fieldString (s : State) (off n : Nat) : s.string off n = fieldString s.payload off n := by
  induction n generalizing off with
  | zero => simp [State.string, fieldString]
  | succ n ih =>
    rw [State.string]
    by_cases h : off < s.parser.len.toNat
    · rw [if_pos h, fieldString_succ (by rwa [payload_length]), ← read_pbuf h, ih]
    · rw [if_neg h, fieldString_of_length_le (by rw [payload_length]; omega)]

theorem extension_eq_fieldExtension (s : State) (k : Nat) : s.extension k = fieldExtension s.payload k := by
  simp only [State.extension, fieldExtension, payload_length, string_eq_fieldString, notAvailable]

/-! ### What the handlers set (R139 to R141) -/

theorem versionFields_eq_versionOf (s : State) : s.versionFields = versionOf s.payload := by
  simp only [State.versionFields, versionOf, string_eq_fieldString, extension_eq_fieldExtension]

theorem statusFields_eq_statusOf {s : State} (h : 6 ≤ s.parser.len.toNat) (time : Nat) :
    s.statusFields time = statusOf s.payload time := by
  have hoff : ∀ {k}, k < 6 → k < s.parser.len.toNat := fun hk => Nat.lt_of_lt_of_le hk h
  simp only [State.statusFields, State.statusFlags, statusOf, u4_eq_field32 (hoff (k := 0 + 3) (by decide)),
    u1_eq_byteAt (hoff (k := 4) (by decide)), flag_eq_byteAt (hoff (k := 5) (by decide))]

theorem timeUtcFields_eq_timeUtcOf {s : State} (h : 20 ≤ s.parser.len.toNat) (time : Nat) :
    s.timeUtcFields time = timeUtcOf s.payload time := by
  have hu1 : ∀ {k}, k < 20 → s.u1 k = byteAt s.payload k := fun hk => u1_eq_byteAt (Nat.lt_of_lt_of_le hk h)
  have hu4 : ∀ {k}, k + 3 < 20 → s.u4 k = field32 s.payload k := fun hk => u4_eq_field32 (Nat.lt_of_lt_of_le hk h)
  have hyear : s.u2 12 = field16 s.payload 12 := u2_eq_field16 (by omega)
  have hflags := flag_eq_byteAt (s := s) (off := 19) h
  simp [State.timeUtcFields, State.timeUtcFlags, State.i4, timeUtcOf, hu1, hu4, hyear, hflags]

/-! ### HANDLE, key by key (R136) -/

section
variable {s : State}

theorem handle_ack (hcls : s.parser.cls = 0x05#8) (hid : s.parser.id = 0x01#8 ∨ s.parser.id = 0x00#8) :
    handle s = { s with pending := .none } := by
  unfold handle
  rcases hid with hid | hid
  · rw [hcls, hid]; rfl
  · rw [hcls, hid]; rfl

theorem handle_monVer (hcls : s.parser.cls = 0x0A#8) (hid : s.parser.id = 0x04#8) :
    handle s = { s with pending := .none, ver := versionOf s.payload } := by
  rw [← versionFields_eq_versionOf]
  unfold handle
  rw [hcls, hid]; rfl

theorem handle_eq_handleNavStatus (hcls : s.parser.cls = 0x01#8) (hid : s.parser.id = 0x03#8) :
    handle s = handleNavStatus s := by
  unfold handle
  rw [hcls, hid]; rfl

theorem handle_eq_handleNavTimeutc (hcls : s.parser.cls = 0x01#8) (hid : s.parser.id = 0x21#8) :
    handle s = handleNavTimeutc s := by
  unfold handle
  rw [hcls, hid]; rfl

theorem handle_navStatus (hcls : s.parser.cls = 0x01#8) (hid : s.parser.id = 0x03#8) (hlen : 6 ≤ s.payload.length) :
    handle s = { sampled s with st := statusOf s.payload ((sampled s).clk % 2 ^ s.cfg.clockW) } := by
  rw [payload_length] at hlen
  rw [handle_eq_handleNavStatus hcls hid, handleNavStatus, if_pos hlen, statusFields_eq_statusOf hlen]; rfl

theorem handle_navStatus_short (hcls : s.parser.cls = 0x01#8) (hid : s.parser.id = 0x03#8) (hlen : s.payload.length < 6) :
    handle s = s := by
  rw [payload_length] at hlen
  rw [handle_eq_handleNavStatus hcls hid, handleNavStatus, if_neg (Nat.not_le.mpr hlen)]

theorem handle_navTimeutc (hcls : s.parser.cls = 0x01#8) (hid : s.parser.id = 0x21#8) (hlen : 20 ≤ s.payload.length) :
    handle s = { sampled s with tu := timeUtcOf s.payload ((sampled s).clk % 2 ^ s.cfg.clockW) } := by
  rw [payload_length] at hlen
  rw [handle_eq_handleNavTimeutc hcls hid, handleNavTimeutc, if_pos hlen, timeUtcFields_eq_timeUtcOf hlen]; rfl

theorem handle_navTimeutc_short (hcls : s.parser.cls = 0x01#8) (hid : s.parser.id = 0x21#8)
    (hlen : s.payload.length < 20) : handle s = s := by
  rw [payload_length] at hlen
  rw [handle_eq_handleNavTimeutc hcls hid, handleNavTimeutc, if_neg (Nat.not_le.mpr hlen)]

theorem handle_other (hkind : frameKind s.parser.cls s.parser.id = .other) : handle s = s := by
  unfold handle
  rw [hkind]; rfl

end

/-! ### DISPATCH -/

/-- Settles O36: the guard passes, and HANDLE is taken key by key on the payload `p`. -/
theorem dispatchRunsOneHandlerThenNotify : Obligations.DispatchRunsOneHandlerThenNotify := by
  intro s p hmax hlen hread
  obtain rfl := payload_eq hlen hread
  rw [exec_dispatch hmax, dispatchFrame]
  refine ⟨fun hcls hid => ?_, fun hcls hid => ?_, fun hcls hid => ⟨fun hlong => ?_, fun hshort => ?_⟩,
    fun hcls hid => ⟨fun hlong => ?_, fun hshort => ?_⟩, fun hkind => ?_, fun t ht => ?_⟩
  · rw [handle_ack hcls hid]
  · rw [handle_monVer hcls hid]
  · rw [handle_navStatus hcls hid hlong]
  · rw [handle_navStatus_short hcls hid hshort]
  · rw [handle_navTimeutc hcls hid hlong]
  · rw [handle_navTimeutc_short hcls hid hshort]
  · rw [handle_other hkind]
  · obtain rfl := Host.Outcome.next.inj ht
    exact (dispatchFrame_frame s).2.1

/-! ### Notify -/

/-- The notification is delivered to `o`, and E_IN_NOTIFY set for the observer's turn (R144). -/
def State.delivered (s : State) (o : ObserverId) : State :=
  { s with inNotify := true, notes := s.notes ++ [s.notification o] }

section
variable {s : State} {o : ObserverId} (hobs : s.obs = some o)
include hobs

/-- With an observer, Notify delivers, gives it its turn and clears E_IN_NOTIFY (R144). -/
theorem notify_of_obs : notify s = { observerTurn (s.delivered o) with inNotify := false } := by
  rw [notify, State.delivered, hobs]

/-- The turn runs the commands of the script's next entry, in order (log 23). -/
theorem notify_of_commands {commands : List (List Tok)} {later : List (List (List Tok))}
    (hscript : s.obsScript = commands :: later) :
    notify s = { commands.foldl observerCommand { s.delivered o with obsScript := later } with inNotify := false } := by
  have hdelivered : (s.delivered o).obsScript = commands :: later := hscript
  rw [notify_of_obs hobs, observerTurn, hdelivered]

end

/-- Settles O37: no handler runs, so DISPATCH is Notify; what the observer's turn keeps is `observerTurn_frame`. -/
theorem notifyDeliversOneNotification : Obligations.NotifyDeliversOneNotification := by
  intro s hmax hkind
  have hexec : exec .dispatch s = .next (notify s) := by rw [exec_dispatch hmax, dispatchFrame, handle_other hkind]
  refine ⟨fun hobs => by rw [hexec, notify, hobs], fun o hobs => ?_⟩
  have hturn := observerTurn_frame (s.delivered o)
  have hnotify := notify_of_obs hobs
  exact ⟨_, hexec.trans (congrArg _ hnotify), hturn.notes, rfl, hturn.obsScript, hturn.parser, hturn.ver, hturn.tu, hturn.st,
    hturn.eState, hturn.pending, hturn.bound, hturn.waitT0, hturn.wait, hturn.rx, hturn.clk,
    fun _ _ hscript => hnotify.symm.trans (notify_of_commands hobs hscript),
    fun hscript => hnotify.symm.trans (notify_silent hobs hscript)⟩

/-! ### Received frames, from a frame boundary -/

/-- A frame that the parser can take in and the policy accepts: it is latched with its payload, dispatched and released (R97). -/
theorem receive_of_takesFrame {s : State} {cls id : Byte} {p : List Byte} {ckA ckB : Byte}
    (h : takesFrame s cls id p ckA ckB) : ∃ m, holdsPayload s.parser.pbuf m p ∧
      (withFrame s cls id p ckA ckB m).payload = p ∧
      receive cls id p ckA ckB s = .next (released (notify (handle (withFrame s cls id p ckA ckB m)))) := by
  obtain ⟨hs, hw, hmax, haccept⟩ := h
  have hle : p.length ≤ 65535 := hmax.trans s.cfg.maxPayload_le
  have hvalid : (s.latched cls id p ckA ckB s.rx).validate = true :=
    (latched_validate hw hle ..).mpr (haccept.imp_right Eq.symm)
  refine ⟨Memory.writeBytes s.parser.pbuf 0 p, holdsPayload_writeBytes hw p, latched_payload hw hle cls id ckA ckB s.rx, ?_⟩
  rw [receive_of_waitHeader1 hs hmax, complete_of_valid hvalid, latched_eq_withFrame, dispatchFrame]

/-- Settles O30: an acknowledgement clears pending (`handle_ack`), a frame of any other key has no handler (`handle_other`). -/
theorem ackNackAndOtherFramesComeIn : Obligations.AckNackAndOtherFramesComeIn := by
  refine fun s p ckA ckB => ⟨fun h => ?_, fun h => ?_, fun cls id hkind h => ?_⟩
  all_goals obtain ⟨m, hholds, -, hreceive⟩ := receive_of_takesFrame h
  all_goals refine ⟨m, hholds, hreceive.trans ?_⟩
  · rw [handle_ack rfl (.inl rfl)]
  · rw [handle_ack rfl (.inr rfl)]
  · rw [handle_other hkind]

/-- Settles O31: the handler sets the strings of the latched payload (`handle_monVer`). -/
theorem monVerSetsTheVersionStrings : Obligations.MonVerSetsTheVersionStrings := by
  intro s p ckA ckB h
  obtain ⟨m, hholds, hp, hreceive⟩ := receive_of_takesFrame h
  refine ⟨m, hholds, hreceive.trans ?_⟩
  rw [handle_monVer rfl rfl, hp]

/-- Settles O32: the handler sets the fields of the latched payload (`handle_navStatus`), or is given too few bytes. -/
theorem navStatusSetsTheStatusSnapshot : Obligations.NavStatusSetsTheStatusSnapshot := by
  intro s p ckA ckB h
  obtain ⟨m, hholds, hp, hreceive⟩ := receive_of_takesFrame h
  refine ⟨m, hholds, fun hlong => hreceive.trans ?_, fun hshort => hreceive.trans ?_⟩
  · rw [handle_navStatus rfl rfl (by rwa [hp]), hp]; rfl
  · rw [handle_navStatus_short rfl rfl (by rwa [hp])]

/-- `signed32` is the two's complement reading (spec/42_codec.md R107). -/
theorem signed32_eq_toInt (v : BitVec 32) : signed32 v = v.toInt := by
  rw [BitVec.toInt_eq_msb_cond, BitVec.msb_eq_getLsbD_last]; rfl

/-- Settles O33: `signed32` in its two cases and in its range (`signed32_eq_toInt`); then as for NAV-STATUS (`handle_navTimeutc`). -/
theorem navTimeutcSetsTheTimeSnapshot : Obligations.NavTimeutcSetsTheTimeSnapshot := by
  refine ⟨fun v => ⟨fun hpos => ?_, fun hneg => ?_, ?_, ?_⟩, fun s p ckA ckB h => ?_⟩
  · rw [signed32, if_neg (by rw [hpos]; exact Bool.false_ne_true)]
  · rw [signed32, if_pos hneg]; rfl
  · rw [signed32_eq_toInt]; exact BitVec.le_toInt v
  · rw [signed32_eq_toInt]; exact Int.le_of_lt_add_one BitVec.toInt_lt
  · obtain ⟨m, hholds, hp, hreceive⟩ := receive_of_takesFrame h
    refine ⟨m, hholds, fun hlong => hreceive.trans ?_, fun hshort => hreceive.trans ?_⟩
    · rw [handle_navTimeutc rfl rfl (by rwa [hp]), hp]; rfl
    · rw [handle_navTimeutc_short rfl rfl (by rwa [hp])]

end Sys2Proof.Machine
end

section
/-! PROOFS. The exceptions (spec/60_exceptions.md R147, R149, R152): what fails without a transport, an OVERSIZE header, and that the
event history is never read, by one relation (`SameButEvents`) that every operation of the model keeps. -/

namespace Sys2Proof.Machine

open Statement

/-! ### TRANSPORT_UNBOUND -/

/-- A command of NEEDS_TRANSPORT that passes R113's check fails the next one without a transport (R111, R112). -/
theorem accept_of_unbound {op : HostOp} (ht : needsTransport op = true) {s : State} (hn : s.inNotify = false) (hb : s.bound = false)
    (run : State → Host.Outcome State Fault Refusal) :
    accept op run s = .next (refusedWith (.transportUnbound op) .transportUnbound s) :=
  accept_of_some (refusedAtAcceptance_unbound (fun h => by rw [hn] at h; cases h) ht hb) run

/-- Settles O8: the four commands that pump fail by `accept_of_unbound`, the three requests by `commandRequest_of_unbound`. -/
theorem transportCommandsFailWhileUnbound : Obligations.TransportCommandsFailWhileUnbound := by
  refine fun s hb => ⟨fun hn => ⟨?_, ?_, fun r => ⟨?_, ?_⟩⟩, ?_, ?_, ?_⟩
  · rw [exec_initEngine, accept_of_unbound rfl hn hb]
  · rw [exec_process, accept_of_unbound rfl hn hb]
  · rw [exec_subscribeStatus, accept_of_unbound rfl hn hb]
  · rw [exec_subscribeTimeutc, accept_of_unbound rfl hn hb]
  · exact congrArg Host.Outcome.next (commandRequest_of_unbound (op := .requestVersion) rfl rfl hb ..)
  · exact congrArg Host.Outcome.next (commandRequest_of_unbound (op := .requestStatus) rfl rfl hb ..)
  · exact congrArg Host.Outcome.next (commandRequest_of_unbound (op := .requestTimeutc) rfl rfl hb ..)

/-! ### OVERSIZE -/

/-- The first five bytes of a header, whatever length it declares (spec/41_frame_parser.md R89 to R93). -/
theorem feed_untilLenHigh {s : State} {cls id lo : Byte} {rest : List Byte} (hs : s.parser.state = .waitHeader1)
    (hr : s.rx = hdr1 :: hdr2 :: cls :: id :: lo :: rest) :
    feed 5 s =
      { s with
        rx := rest
        parser := { s.parser with state := .lenHigh, cls := cls, id := id, len := lo.zeroExtend 16, idx := 0#16 } } := by
  rw [feed_cons hr]
  simp only [parserStep, hs, stepWaitHeader1, if_true]
  rfl

/-- The length's second byte, when the length is above MAX_PAYLOAD (spec/41_frame_parser.md R94). -/
theorem stepLenHigh_oversize {s : State} {len : U16} (hlen : s.parser.len = (loByte len).zeroExtend 16)
    (hmax : s.cfg.maxPayload < len.toNat) :
    stepLenHigh (hiByte len) s = (s.raise (.oversize len)).setParser { s.parser with len := len, state := .waitHeader1 } := by
  simp only [stepLenHigh, hlen, loByte_zeroExtend, wordOfBytes_hi_lo, if_pos hmax]

/-- Settles O29: five bytes bring the parser to LenHigh (`feed_untilLenHigh`), and the sixth fails the length test before any byte of
the payload is read (`stepLenHigh_oversize`). -/
theorem oversizeFrameIsDroppedUnread : Obligations.OversizeFrameIsDroppedUnread := by
  intro s cls id len rest hs hmax hr
  rw [exec_feed (by simp [hr]) (parserInBounds_of_waitHeader1 hs), feed_add 5 1, feed_untilLenHigh hs hr, feed_cons rfl, feed]
  exact congrArg Host.Outcome.next (stepLenHigh_oversize rfl hmax)

/-! ### The event history: the relation -/

/-- The two states are the same, their event histories aside. -/
def SameButEvents (s t : State) : Prop := ∃ e, t = { s with events := e }

/-- The two outcomes are the same, the event history of a next state aside. -/
inductive OutcomeSameButEvents : Host.Outcome State Fault Refusal → Host.Outcome State Fault Refusal → Prop
  | next {s t : State} (h : SameButEvents s t) : OutcomeSameButEvents (.next s) (.next t)
  | fault (r : Fault) : OutcomeSameButEvents (.fault r) (.fault r)
  | refused (r : Refusal) : OutcomeSameButEvents (.refused r) (.refused r)

namespace SameButEvents

variable {s t : State}

/-! ### Updates and reads of the state -/

/-- An update for which another event history in the state before makes no other difference in the state after. -/
theorem update {f : State → State} (hf : ∀ s e, SameButEvents (f s) (f { s with events := e })) (h : SameButEvents s t) :
    SameButEvents (f s) (f t) := by
  obtain ⟨e, rfl⟩ := h
  exact hf s e

theorem raise (h : SameButEvents s t) (e : Event) : SameButEvents (s.raise e) (t.raise e) :=
  h.update fun _ _ => ⟨_, rfl⟩

theorem answerTo (h : SameButEvents s t) (who : Issuer) (c : ResultCode) (d : ReadData) :
    SameButEvents (s.answerTo who c d) (t.answerTo who c d) :=
  h.update fun _ _ => ⟨_, rfl⟩

theorem answer (h : SameButEvents s t) (c : ResultCode) (d : ReadData) : SameButEvents (s.answer c d) (t.answer c d) :=
  h.update fun _ _ => ⟨_, rfl⟩

theorem tick (h : SameButEvents s t) : SameButEvents s.tick t.tick := h.update fun _ _ => ⟨_, rfl⟩

theorem rxArrive (h : SameButEvents s t) : SameButEvents s.rxArrive t.rxArrive := h.update fun _ _ => ⟨_, rfl⟩

theorem sendFrame (h : SameButEvents s t) (c i : Byte) (p : List Byte) :
    SameButEvents (sendFrame c i p s) (sendFrame c i p t) := by
  rw [sendFrame_eq, sendFrame_eq]
  exact h.update (f := fun s => { s with tx := s.tx ++ encodeFrame c i p }) fun _ _ => ⟨_, rfl⟩

/-- What a read answers, when it looks at other fields only. -/
theorem reads {α : Type} {g : State → α} (hg : ∀ s e, g { s with events := e } = g s) (h : SameButEvents s t) : g t = g s := by
  obtain ⟨e, rfl⟩ := h
  exact hg s e

theorem parserInBounds (h : SameButEvents s t) : t.parserInBounds = s.parserInBounds := h.reads fun _ _ => rfl
theorem rx (h : SameButEvents s t) : t.rx = s.rx := h.reads fun _ _ => rfl
theorem eState (h : SameButEvents s t) : t.eState = s.eState := h.reads fun _ _ => rfl
theorem wait (h : SameButEvents s t) : t.wait = s.wait := h.reads fun _ _ => rfl
theorem opLatch (h : SameButEvents s t) : t.opLatch = s.opLatch := h.reads fun _ _ => rfl
theorem hostQ (h : SameButEvents s t) : t.hostQ = s.hostQ := h.reads fun _ _ => rfl

/-! ### Commands and the observer -/

/-- Acceptance reads E_IN_NOTIFY and E_BOUND only (spec/43_session.md R111). -/
theorem refusedAtAcceptance (h : SameButEvents s t) (op : HostOp) :
    Option.Rel SameButEvents (refusedAtAcceptance op s) (refusedAtAcceptance op t) := by
  obtain ⟨e, rfl⟩ := h
  unfold Machine.refusedAtAcceptance
  dsimp only
  split
  · exact .some ⟨_, rfl⟩
  · split
    · exact .some ⟨_, rfl⟩
    · exact .none

/-- A command whose rule is an update. -/
theorem acceptThen (h : SameButEvents s t) {op : HostOp} {run : State → State}
    (hrun : ∀ s e, SameButEvents (run s) (run { s with events := e })) :
    SameButEvents (acceptThen op run s) (acceptThen op run t) := by
  have hr := h.refusedAtAcceptance op
  unfold Machine.acceptThen
  generalize Machine.refusedAtAcceptance op s = a, Machine.refusedAtAcceptance op t = b at hr
  cases hr with
  | some hu => exact hu
  | none => exact h.update hrun

theorem illegalCommand (h : SameButEvents s t) (command : List Tok) :
    SameButEvents (illegalCommand command s) (illegalCommand command t) :=
  (h.raise _).answer ..

theorem commandBind (h : SameButEvents s t) : SameButEvents (commandBind s) (commandBind t) :=
  h.acceptThen fun _ _ => ⟨_, rfl⟩

theorem commandAttachObserver (h : SameButEvents s t) (o : ObserverId) :
    SameButEvents (commandAttachObserver o s) (commandAttachObserver o t) :=
  h.acceptThen fun _ _ => ⟨_, rfl⟩

theorem commandDetachObserver (h : SameButEvents s t) : SameButEvents (commandDetachObserver s) (commandDetachObserver t) :=
  h.acceptThen fun _ _ => ⟨_, rfl⟩

theorem commandReadVersion (h : SameButEvents s t) : SameButEvents (commandReadVersion s) (commandReadVersion t) :=
  h.acceptThen fun _ _ => ⟨_, rfl⟩

theorem commandReadTimeutc (h : SameButEvents s t) : SameButEvents (commandReadTimeutc s) (commandReadTimeutc t) :=
  h.acceptThen fun _ _ => ⟨_, rfl⟩

theorem commandReadStatus (h : SameButEvents s t) : SameButEvents (commandReadStatus s) (commandReadStatus t) :=
  h.acceptThen fun _ _ => ⟨_, rfl⟩

theorem commandReadInitialized (h : SameButEvents s t) : SameButEvents (commandReadInitialized s) (commandReadInitialized t) :=
  h.acceptThen fun _ _ => ⟨_, rfl⟩

theorem commandSetChecksumPolicy (h : SameButEvents s t) (p : Byte) :
    SameButEvents (commandSetChecksumPolicy p s) (commandSetChecksumPolicy p t) := by
  unfold Machine.commandSetChecksumPolicy
  cases policyOf p with
  | some policy => exact h.acceptThen fun _ _ => ⟨_, rfl⟩
  | none => exact h.illegalCommand _

theorem commandRequest (h : SameButEvents s t) (op : HostOp) (c i : Byte) :
    SameButEvents (commandRequest op c i s) (commandRequest op c i t) :=
  h.acceptThen fun _ e => (sendFrame ⟨e, rfl⟩ c i []).answer ..

/-- Any one command of the observer (spec/43_session.md R113). -/
theorem observerRun (h : SameButEvents s t) (command : List Tok) (i : Instr) :
    SameButEvents (observerRun command i s) (observerRun command i t) := by
  cases i with
  | setChecksumPolicy p => exact h.commandSetChecksumPolicy p
  | requestVersion | requestStatus | requestTimeutc => exact h.commandRequest ..
  | attachObserver o => exact h.commandAttachObserver o
  | detachObserver => exact h.commandDetachObserver
  | readVersion => exact h.commandReadVersion
  | readTimeutc => exact h.commandReadTimeutc
  | readStatus => exact h.commandReadStatus
  | readInitialized => exact h.commandReadInitialized
  | _ => exact (h.raise _).answer ..

theorem observerCommand (h : SameButEvents s t) (command : List Tok) :
    SameButEvents (observerCommand s command) (observerCommand t command) := by
  unfold Machine.observerCommand
  split
  · exact h.observerRun ..
  · exact h.illegalCommand _

theorem observerCommands (h : SameButEvents s t) (commands : List (List Tok)) :
    SameButEvents (commands.foldl Machine.observerCommand s) (commands.foldl Machine.observerCommand t) := by
  induction commands generalizing s t with
  | nil => exact h
  | cons c rest ih => exact ih (h.observerCommand c)

theorem observerTurn (h : SameButEvents s t) : SameButEvents (observerTurn s) (observerTurn t) := by
  obtain ⟨e, rfl⟩ := h
  unfold Machine.observerTurn
  dsimp only
  split
  · exact ⟨e, rfl⟩
  · exact observerCommands ⟨e, rfl⟩ _

/-! ### DISPATCH -/

/-- HANDLE reads the parser registers, PBUF and the clock (spec/44_dispatch.md R136 to R143). -/
theorem handle (h : SameButEvents s t) : SameButEvents (handle s) (handle t) := by
  obtain ⟨e, rfl⟩ := h
  unfold Machine.handle
  dsimp only
  split
  case h_1 | h_2 | h_3 | h_6 => exact ⟨e, rfl⟩
  case h_4 => unfold handleNavStatus; dsimp only; split <;> exact ⟨e, rfl⟩
  case h_5 => unfold handleNavTimeutc; dsimp only; split <;> exact ⟨e, rfl⟩

theorem notify (h : SameButEvents s t) : SameButEvents (notify s) (notify t) := by
  obtain ⟨e, rfl⟩ := h
  unfold Machine.notify
  dsimp only
  split
  · exact ⟨e, rfl⟩
  · exact (observerTurn ⟨e, rfl⟩).update (f := fun u => { u with inNotify := false }) fun _ _ => ⟨_, rfl⟩

theorem dispatchFrame (h : SameButEvents s t) : SameButEvents (dispatchFrame s) (dispatchFrame t) := h.handle.notify

/-! ### The parser -/

/-- A frame in the parser registers is validated on them alone (spec/40_checksum.md R83 to R85). -/
theorem complete (h : SameButEvents s t) : SameButEvents s.complete t.complete := by
  have hvalid : t.validate = s.validate := h.reads fun _ _ => rfl
  unfold State.complete
  rw [hvalid]
  split
  · exact h.dispatchFrame.update (f := finishFrame) fun _ _ => ⟨_, rfl⟩
  · exact h.update (f := fun s => finishFrame (s.raise (.checksumMismatch s.parser.cls s.parser.id))) fun _ _ => ⟨_, rfl⟩

theorem parserStep (h : SameButEvents s t) (b : Byte) : SameButEvents (parserStep b s) (parserStep b t) := by
  obtain ⟨e, rfl⟩ := h
  unfold Machine.parserStep
  dsimp only
  split
  case h_1 => unfold stepWaitHeader1; split <;> exact ⟨_, rfl⟩
  case h_2 => unfold stepWaitHeader2; split <;> exact ⟨_, rfl⟩
  case h_3 | h_4 | h_5 | h_8 => exact ⟨e, rfl⟩
  case h_6 =>
    unfold stepLenHigh
    dsimp only
    split
    · exact ⟨_, rfl⟩
    · split <;> exact ⟨_, rfl⟩
  case h_7 => unfold stepPayload; dsimp only [State.memWrite]; split <;> exact ⟨_, rfl⟩
  case h_9 => exact complete (s := s.setParser { s.parser with ckB := b }) ⟨e, rfl⟩

theorem feed (h : SameButEvents s t) (n : Nat) : SameButEvents (feed n s) (feed n t) := by
  induction n generalizing s t with
  | zero => exact h
  | succ n ih =>
    cases hr : s.rx with
    | nil => rwa [feed_nil hr, feed_nil (h.rx.trans hr)]
    | cons b rest =>
      rw [feed_cons hr, feed_cons (h.rx.trans hr)]
      refine ih (parserStep ?_ b)
      exact h.update (f := fun s => { s with rx := rest }) fun _ _ => ⟨_, rfl⟩

theorem pump (h : SameButEvents s t) : SameButEvents (pump s) (pump t) := by
  rw [Machine.pump, Machine.pump, h.rxArrive.rx]
  exact h.rxArrive.feed _

theorem receiveFrame (h : SameButEvents s t) (cls id : Byte) (p : List Byte) (ckA ckB : Byte) :
    SameButEvents (receiveFrame cls id p ckA ckB s) (receiveFrame cls id p ckA ckB t) := by
  obtain ⟨e, rfl⟩ := h
  exact feed ⟨e, rfl⟩ _

/-! ### Waits -/

theorem startWait (h : SameButEvents s t) (w : Waiter) : SameButEvents (startWait w s) (startWait w t) :=
  h.update fun _ _ => ⟨_, rfl⟩

theorem startRate (h : SameButEvents s t) (w : Waiter) (c i r : Byte) :
    SameButEvents (startRate w c i r s) (startRate w c i r t) := by
  obtain ⟨e, rfl⟩ := h
  exact ⟨e, by rw [startRate_eq, startRate_eq]⟩

theorem startInit (h : SameButEvents s t) : SameButEvents (startInit s) (startInit t) := by
  obtain ⟨e, rfl⟩ := h
  exact ⟨e, by rw [startInit_eq, startInit_eq]⟩

/-- What the waiting operation does with its result depends on the operation and the result (R118, R131). -/
theorem resume (h : SameButEvents s t) (w : Waiter) (r : ResultCode) : SameButEvents (resume w r s) (resume w r t) := by
  cases w with
  | waitPending | setMessageRate | subscribeStatus | subscribeTimeutc => exact h.update fun _ _ => ⟨_, rfl⟩
  | disableNmea k =>
    unfold Machine.resume
    dsimp only
    split
    · exact h.startRate ..
    · exact h
  | initVersion =>
    unfold Machine.resume
    dsimp only
    split
    · exact h.update (f := fun s => State.answer .timeout .none { s with eState := .initializationFailed }) fun _ _ => ⟨_, rfl⟩
    · exact h.startRate ..
  | initNmea k =>
    unfold Machine.resume
    dsimp only
    split
    · exact h.startRate ..
    · exact h.update (f := fun s => State.answer .ok .none { s with eState := .initialized }) fun _ _ => ⟨_, rfl⟩

/-- One iteration branches on E_PENDING and the clock (spec/43_session.md R132). -/
theorem waitIteration (h : SameButEvents s t) (w : Waiter) : SameButEvents (waitIteration w s) (waitIteration w t) := by
  have hpending : (Machine.pump t).pending = (Machine.pump s).pending := h.pump.reads fun _ _ => rfl
  have hexpired : (Machine.pump t).tick.expired = (Machine.pump s).tick.expired := h.pump.tick.reads fun _ _ => rfl
  by_cases hp : (Machine.pump s).pending = .none
  · rw [waitIteration_cleared hp, waitIteration_cleared (hpending.trans hp)]
    exact (h.pump.update (f := fun s => { s with wait := none }) fun _ _ => ⟨_, rfl⟩).resume ..
  · have hp' : (Machine.pump t).pending ≠ .none := by rwa [hpending]
    cases he : (Machine.pump s).tick.expired with
    | true =>
      rw [waitIteration_expired hp he, waitIteration_expired hp' (hexpired.trans he)]
      refine .resume (.raise ?_ _) ..
      exact h.pump.tick.update (f := fun s => { s with pending := .none, wait := none }) fun _ _ => ⟨_, rfl⟩
    | false => rw [waitIteration_goesOn hp he, waitIteration_goesOn hp' (hexpired.trans he)]; exact h.pump.tick

theorem drive (h : SameButEvents s t) (n : Nat) : SameButEvents (drive n s) (drive n t) := by
  induction n generalizing s t with
  | zero => exact h
  | succ n ih =>
    cases hw : s.wait with
    | none => rwa [drive_done hw, drive_done (h.wait.trans hw)]
    | some w => rw [drive_succ hw, drive_succ (h.wait.trans hw)]; exact ih (h.waitIteration w)

theorem runWait (h : SameButEvents s t) : SameButEvents (runWait s) (runWait t) := by
  obtain ⟨e, rfl⟩ := h
  exact drive ⟨e, rfl⟩ _

end SameButEvents

/-! ### Instructions -/

namespace OutcomeSameButEvents

variable {s t : State}

/-- An operation behind the same bound. -/
theorem guardPbuf {b c : Bool} (hb : c = b) (h : SameButEvents s t) : OutcomeSameButEvents (guardPbuf b s) (guardPbuf c t) := by
  cases hb
  cases b with
  | true => exact .next h
  | false => exact .fault _

/-- A command that is refused or runs its rule. -/
theorem accept (h : SameButEvents s t) {op : HostOp} {run : State → Host.Outcome State Fault Refusal}
    (hrun : OutcomeSameButEvents (run s) (run t)) : OutcomeSameButEvents (accept op run s) (accept op run t) := by
  have hr := h.refusedAtAcceptance op
  unfold Machine.accept
  generalize refusedAtAcceptance op s = a, refusedAtAcceptance op t = b at hr
  cases hr with
  | some hu => exact .next hu
  | none => exact hrun

/-- INITIALIZE branches on E_STATE (spec/43_session.md R118). -/
theorem execInitEngine (h : SameButEvents s t) : OutcomeSameButEvents (execInitEngine s) (execInitEngine t) := by
  refine .accept h ?_
  rw [h.eState]
  split
  · exact .next (h.answer ..)
  · exact .guardPbuf h.parserInBounds h.startInit.runWait

/-- SUBSCRIBE_STATUS and SUBSCRIBE_TIMEUTC (R120, R121). -/
theorem acceptRate (h : SameButEvents s t) (op : HostOp) (w : Waiter) (c i r : Byte) :
    OutcomeSameButEvents (Machine.accept op (fun s => Machine.guardPbuf s.parserInBounds (runWait (startRate w c i r s))) s)
      (Machine.accept op (fun s => Machine.guardPbuf s.parserInBounds (runWait (startRate w c i r s))) t) :=
  .accept h (.guardPbuf h.parserInBounds (h.startRate ..).runWait)

theorem execFeed (h : SameButEvents s t) (n : Nat) : OutcomeSameButEvents (execFeed n s) (execFeed n t) := by
  unfold Machine.execFeed
  rw [h.rx]
  split
  · exact .guardPbuf h.parserInBounds (h.feed n)
  · exact .refused _

theorem execSendFrame (h : SameButEvents s t) (c i : Byte) (p : List Byte) :
    OutcomeSameButEvents (execSendFrame c i p s) (execSendFrame c i p t) := by
  unfold Machine.execSendFrame
  split
  · exact .next (h.sendFrame c i p)
  · exact .refused _

theorem execDispatch (h : SameButEvents s t) : OutcomeSameButEvents (execDispatch s) (execDispatch t) :=
  .guardPbuf (h.reads (g := fun s => decide (s.parser.len.toNat ≤ s.cfg.maxPayload)) fun _ _ => rfl) h.dispatchFrame

/-- A received frame, whatever its key (spec/30_encoding.md R70). -/
theorem receive (h : SameButEvents s t) (cls id : Byte) (p : List Byte) (ckA ckB : Byte) :
    OutcomeSameButEvents (receive cls id p ckA ckB s) (receive cls id p ckA ckB t) := by
  unfold Machine.receive
  split
  · exact .guardPbuf h.parserInBounds (h.receiveFrame ..)
  · exact .refused _

/-- Every instruction, row by row of the opcode table. -/
theorem exec (h : SameButEvents s t) (i : Instr) : OutcomeSameButEvents (exec i s) (exec i t) := by
  cases i with
  | bind => exact .next h.commandBind
  | attachObserver o => exact .next (h.commandAttachObserver o)
  | detachObserver => exact .next h.commandDetachObserver
  | readVersion => exact .next h.commandReadVersion
  | readTimeutc => exact .next h.commandReadTimeutc
  | readStatus => exact .next h.commandReadStatus
  | readInitialized => exact .next h.commandReadInitialized
  | setChecksumPolicy p => exact .next (h.commandSetChecksumPolicy p)
  | requestVersion | requestStatus | requestTimeutc => exact .next (h.commandRequest ..)
  | initEngine => exact .execInitEngine h
  | process => rw [exec_process, exec_process]; exact .accept h (.guardPbuf h.parserInBounds (h.pump.answer ..))
  | subscribeStatus r => rw [exec_subscribeStatus, exec_subscribeStatus]; exact .acceptRate h ..
  | subscribeTimeutc r => rw [exec_subscribeTimeutc, exec_subscribeTimeutc]; exact .acceptRate h ..
  | setMessageRate | disableDefaultNmea => exact .guardPbuf h.parserInBounds (h.startRate ..).runWait
  | pollMessage => exact .next ((h.sendFrame ..).answerTo ..)
  | waitPending => exact .guardPbuf h.parserInBounds (h.startWait _).runWait
  | feed n => exact .execFeed h n
  | sendFrame c k p => exact .execSendFrame h c k p
  | dispatch => exact .execDispatch h
  | rxAckAck | rxAckNack | rxMonVer | rxNavStatus | rxNavTimeutc | rxUbxOther => exact .receive h ..
  | txCfgMsg | txMonVerPoll | txNavStatusPoll | txNavTimeutcPoll => exact .next (h.sendFrame ..)

theorem runDecoded (h : SameButEvents s t) (space : Space) (toks : List Tok) :
    OutcomeSameButEvents (runDecoded space toks s) (runDecoded space toks t) := by
  unfold Machine.runDecoded
  split
  · exact .exec h _
  · cases space with
    | host => exact .next (h.illegalCommand toks)
    | internal | rx | tx => exact .refused _

/-! ### Steps -/

/-- A wait goes on, or the latch, else the HOST port, is run, or there is nothing to do: none of these looks at the event history. -/
theorem step (h : SameButEvents s t) : OutcomeSameButEvents (step s) (step t) := by
  cases hw : s.wait with
  | some w =>
    have hstep : ∀ {u : State}, u.wait = some w → Machine.step u = continueWait u := fun hu => by simp only [Machine.step, hu]
    rw [hstep hw, hstep (h.wait.trans hw)]
    exact .guardPbuf h.parserInBounds h.runWait
  | none =>
    have hw' := h.wait.trans hw
    cases hl : s.opLatch with
    | some op =>
      rw [step_of_latch hw hl, step_of_latch hw' (h.opLatch.trans hl)]
      refine .runDecoded ?_ ..
      exact h.update (f := fun s => { s with opLatch := none }) fun _ _ => ⟨_, rfl⟩
    | none =>
      have hl' := h.opLatch.trans hl
      cases hq : s.hostQ with
      | cons item rest =>
        rw [step_of_hostItem hw hl hq, step_of_hostItem hw' hl' (h.hostQ.trans hq)]
        refine .runDecoded ?_ ..
        exact h.update (f := fun s => State.stimulate item.stim { s with hostQ := rest, pumps := item.waits }) fun _ _ => ⟨_, rfl⟩
      | nil =>
        rw [step_of_idle hw hl hq, step_of_idle hw' hl' (h.hostQ.trans hq)]
        exact .next h

end OutcomeSameButEvents

/-- Settles O58: the two steps answer the same, their event histories aside (`OutcomeSameButEvents.step`); the one
given goes on, so the other does. -/
theorem eventHistoryIsNeverRead : Obligations.EventHistoryIsNeverRead := by
  intro s t e hstep
  have h := OutcomeSameButEvents.step (s := s) ⟨e, rfl⟩
  rw [hstep] at h
  generalize step { s with events := e } = outcome at h ⊢
  cases h with
  | next ht =>
    obtain ⟨f, rfl⟩ := ht
    exact ⟨f, rfl⟩

end Sys2Proof.Machine
end

section
/-! PROOFS. The hazards (spec/70_reset_and_hazards.md R176, R178, R180): a wait whose clock stands still, a request that waits while any
bytes arrive, and the near miss of header 2. -/

namespace Sys2Proof.Machine

open Statement

/-! ### A clock that stands still -/

/-- Settles O48: the one iteration of such a step is a pump and a Now() that change nothing (`pump_idle`, `sampled_idle`), and it finds
the deadline not yet passed. -/
theorem stalledClockKeepsWaiting : Obligations.StalledClockKeepsWaiting := by
  intro s w hw hb hpe hr hp ht hlt h0
  have hpump : pump s = s := pump_idle hr hp
  have hsampled : sampled (pump s) = s := by rw [hpump, sampled_idle ht]
  rw [step_eq_waitIteration hw hb hp, waitIteration_waits h0 (by rwa [hpump]) (by rwa [hsampled]), hsampled]

/-! ### A request that waits while any bytes arrive -/

/-- The operation is over once its wait is: it returns the wait's result (R120, R121, R129, R132). -/
def ReturnsResult (w : Waiter) : Prop := ∀ r s, ∃ who, afterWait w r s = returned who r .none s

theorem returnsResult_subscribeStatus : ReturnsResult .subscribeStatus := fun _ s => ⟨s.issuer, rfl⟩

theorem returnsResult_subscribeTimeutc : ReturnsResult .subscribeTimeutc := fun _ s => ⟨s.issuer, rfl⟩

/-- The engine goes on, with no wait in progress and nothing pending. -/
def Ends (o : Host.Outcome State Fault Refusal) : Prop := ∃ t, o = .next t ∧ t.wait = none ∧ t.pending = .none

theorem ReturnsResult.ends {w : Waiter} (h : ReturnsResult w) (r : ResultCode) {u : State} (hw : u.wait = none)
    (hp : u.pending = .none) : Ends (onward (afterWait w r u)) := by
  obtain ⟨who, hreturns⟩ := h r u
  rw [hreturns]
  exact ⟨returned who r .none u, onward_of_idle hw, hw, hp⟩

/-- Whatever a pump reads, only the time before it passes, as long as none is in store for the Now() of a handler (R161). -/
theorem waited_pump {s : State} {st : Stim} {rest : List Stim} (ht : s.ticks = []) (hp : s.pumps = st :: rest)
    (h0 : s.waitT0 < 2 ^ s.cfg.clockW) (hd : waited s + st.clk < 2 ^ s.cfg.clockW) :
    waited (pump s) = waited s + st.clk := by
  obtain ⟨hframe, -⟩ := pump_frame s
  have hclk : (pump s).clk = s.clk + st.clk := by rw [(hframe.silentClock ht).2, rxArrive_cons hp]
  rw [← waited_later h0 hd rest, waited, hclk, hframe.waitT0, hframe.cfg]
  rfl

/-- Such a wait ends at the latest with the pump at which the deadline has passed: a reply ends it earlier, and any other bytes leave
the start sample and the clock alone. -/
theorem ReturnsResult.step_ends {w : Waiter} (h : ReturnsResult w) {before more : List Stim} {s : State}
    (hw : s.wait = some w) (hb : s.parserInBounds = true) (ht : s.ticks = []) (h0 : s.waitT0 < 2 ^ s.cfg.clockW)
    (hp : s.pumps = before ++ more) (hlt : waited s < 5000) (h5 : 5000 ≤ waited s + (before.map Stim.clk).sum)
    (hd : waited s + (before.map Stim.clk).sum < 2 ^ s.cfg.clockW) : Ends (step s) := by
  induction before generalizing s with
  | nil => exact absurd h5 (Nat.not_le.mpr hlt)
  | cons st before ih =>
    rw [List.map_cons, List.sum_cons, ← Nat.add_assoc] at h5 hd
    obtain ⟨hframe, -⟩ := pump_frame s
    have hticks : (pump s).ticks = [] := (hframe.silentClock ht).1
    have hsampled : sampled (pump s) = pump s := sampled_idle hticks
    have hwaited : waited (pump s) = waited s + st.clk := waited_pump ht hp h0 (by omega)
    rw [step_eq_onward hw hb hp]
    by_cases hpending : (pump s).pending = .none
    · rw [waitIteration_ok hpending]
      exact h.ends .ok rfl hpending
    by_cases hover : 5000 ≤ waited (pump s)
    · rw [waitIteration_timeout h0 hpending (by rwa [hsampled])]
      exact h.ends .timeout rfl rfl
    · have hwait : (pump s).wait = some w := hframe.wait.trans hw
      have hcfg : (pump s).cfg = s.cfg := hframe.cfg
      have hpumps : (pump s).pumps = before ++ more := by rw [hframe.pumps, State.rxArrive_pumps, hp]; rfl
      have hstart : (pump s).waitT0 < 2 ^ (pump s).cfg.clockW := by rw [hcfg, hframe.waitT0]; exact h0
      rw [waitIteration_waits h0 hpending (by rw [hsampled]; omega), hsampled, onward, if_neg (by rw [hwait]; nofun)]
      exact ih hwait (pump_inBounds hb) hticks hstart hpumps (Nat.not_le.mp hover) (by rwa [hwaited]) (by rwa [hwaited, hcfg])

/-- A CFG-MSG request waits from its start sample, where nothing has elapsed. -/
theorem ReturnsResult.step_requested_ends {w : Waiter} (h : ReturnsResult w) {s : State} {k : Nat}
    (hb : s.parserInBounds = true) (ht : s.ticks = []) (h5 : 5000 ≤ ((s.pumps.take k).map Stim.clk).sum)
    (hd : ((s.pumps.take k).map Stim.clk).sum < 2 ^ s.cfg.clockW) (c i r : Byte) : Ends (step (requested w c i r s)) := by
  have hzero : waited (requested w c i r s) = 0 := waited_of_start rfl
  have hp : (requested w c i r s).pumps = s.pumps.take k ++ s.pumps.drop k := (List.take_append_drop k s.pumps).symm
  exact h.step_ends rfl hb (sampled_ticks ht) (now_lt (sampled s)) hp (by omega) (by omega) (by rwa [hzero, Nat.zero_add])

/-- Settles O49: both commands are a request's step (`ReturnsResult.step_requested_ends`). -/
theorem rateRequestEndsOnceTheDeadlinePasses : Obligations.RateRequestEndsOnceTheDeadlinePasses := by
  rintro s r k ⟨hn, hbound, hb⟩ ht - h5 hd
  constructor
  · rw [exec_subscribeStatus_accepted hb hn hbound]
    exact returnsResult_subscribeStatus.step_requested_ends hb ht h5 hd ..
  · rw [exec_subscribeTimeutc_accepted hb hn hbound]
    exact returnsResult_subscribeTimeutc.step_requested_ends hb ht h5 hd ..

/-! ### The near miss of header 2 -/

/-- A header 1 byte and then no header 2 byte: both are consumed, and the parser is back at WaitHeader1 (spec/41_frame_parser.md R89,
R90). -/
theorem feed_resync {s : State} {b : Byte} {rest : List Byte} (hs : s.parser.state = .waitHeader1) (hb : b ≠ hdr2)
    (hr : s.rx = hdr1 :: b :: rest) :
    feed 2 s =
      { s with rx := rest, events := s.events ++ [.resyncHdr2 b], parser := { s.parser with idx := 0#16 } } := by
  rw [feed_cons hr]
  simp only [parserStep, hs, stepWaitHeader1, if_true]
  rw [feed_cons rfl]
  exact if_neg hb

/-- Settles O28: B5 B5 is a resync (`feed_resync`), and the 62 behind it is noise (`feed_noise`). -/
theorem headerTwoNearMissLosesTheFrame : Obligations.HeaderTwoNearMissLosesTheFrame := by
  intro s rest hs hr
  have hresync := feed_resync hs (by decide) hr
  have hnoise : feed 1 (feed 2 s) = { feed 2 s with rx := rest, events := (feed 2 s).events ++ [.noise 0x62#8] } :=
    feed_noise (noise := [0x62#8]) (by rw [hresync]; exact hs) (by decide) (by rw [hresync]; rfl)
  rw [exec_feed (by simp [hr]) (parserInBounds_of_waitHeader1 hs), feed_add 2 1, hnoise, hresync, List.append_assoc]
  rfl

end Sys2Proof.Machine
end

section
/-! PROOFS. The decoder and the encoder undo each other (spec/30_encoding.md R60, R65, R70 to R75): from an instruction to its tokens
and back, space by space, and from tokens to an instruction and back. -/

namespace Sys2Proof

open Machine

/-! ### From an instruction to its tokens and back -/

/-- An internal operation comes back from its tokens (R72). -/
theorem decode_encode_internal {i : Instr} (hi : i.space = .internal) (hw : i.WellFormed) :
    decode .internal (encode i) = .ok i := by
  cases i with
  | sendFrame c k payload => exact decodePayload_byteToks _ c k hw
  | setMessageRate | pollMessage | disableDefaultNmea | waitPending | feed | dispatch => rfl
  | _ => cases hi

/-- Any other frame is its own row, with its class and id (R70). -/
theorem rxInstr_of_other {cls id : Byte} (h : frameKind cls id = .other) (payload : List Byte) (ckA ckB : Byte) :
    rxInstr cls id payload ckA ckB = .rxUbxOther cls id payload ckA ckB := by
  rw [rxInstr, h]

/-- A received frame comes back from its bytes, the checksum bytes among them, whatever they are (R60, R70). -/
theorem decode_encode_rx {i : Instr} (hi : i.space = .rx) (hw : i.WellFormed) : decode .rx (encode i) = .ok i := by
  cases i with
  | rxAckAck | rxAckNack | rxMonVer | rxNavStatus | rxNavTimeutc => exact decodeRx_wireFrame hw ..
  | rxUbxOther cls id payload ckA ckB =>
    obtain ⟨hfits, hother⟩ := hw
    exact (decodeRx_wireFrame hfits ..).trans (congrArg Except.ok (rxInstr_of_other hother ..))
  | _ => cases hi

/-- A transmitted frame comes back from its bytes (R62, R63). -/
theorem decode_encode_tx {i : Instr} (hi : i.space = .tx) : decode .tx (encode i) = .ok i := by
  cases i with
  | txCfgMsg c k r => exact decodeTx_encodeFrame (p := [c, k, r]) (by decide : 3 ≤ 65535) 0x06#8 0x01#8
  | txMonVerPoll => exact decodeTx_encodeFrame (p := []) (Nat.zero_le _) 0x0A#8 0x04#8
  | txNavStatusPoll => exact decodeTx_encodeFrame (p := []) (Nat.zero_le _) 0x01#8 0x03#8
  | txNavTimeutcPoll => exact decodeTx_encodeFrame (p := []) (Nat.zero_le _) 0x01#8 0x21#8
  | _ => cases hi

/-- Settles O12: space by space. -/
theorem decodeUndoesEncode : Obligations.DecodeUndoesEncode := by
  intro i hw
  cases hspace : i.space with
  | host => exact decode_encode_host hspace hw
  | internal => exact decode_encode_internal hspace hw
  | rx => exact decode_encode_rx hspace hw
  | tx => exact decode_encode_tx hspace

/-! ### From tokens to an instruction and back -/

/-- The instruction is a well-formed one of the space, and the tokens are its encoding. -/
def EncodedIn (space : Space) (toks : List Tok) (i : Instr) : Prop := i.WellFormed ∧ i.space = space ∧ encode i = toks

/-- A host command's operands are read whole, and only the legal ones are read (R65, R71, R74). -/
theorem decodeHostOperands_ok {op : HostOp} {operands : List Tok} {i : Instr}
    (h : decodeHostOperands op operands = .ok i) : EncodedIn .host (.byte op.opcode :: operands) i := by
  cases op with
  | attachObserver => obtain ⟨o, rfl, rfl⟩ := oneObserver_ok h; exact ⟨trivial, rfl, rfl⟩
  | setChecksumPolicy =>
    obtain ⟨p, rfl, hp⟩ := oneByte_ok h
    split at hp
    · rename_i hlegal; cases hp; exact ⟨hlegal, rfl, rfl⟩
    · cases hp
  | subscribeStatus | subscribeTimeutc => obtain ⟨r, rfl, hr⟩ := oneByte_ok h; cases hr; exact ⟨trivial, rfl, rfl⟩
  | bind | detachObserver | initEngine | process | requestVersion | requestStatus | requestTimeutc | readVersion
  | readTimeutc | readStatus | readInitialized => obtain ⟨rfl, rfl⟩ := noOperands_ok h; exact ⟨trivial, rfl, rfl⟩

/-- What the HOST port decodes (R65). -/
theorem decodeHost_ok {toks : List Tok} {i : Instr} (h : decodeHost toks = .ok i) : EncodedIn .host toks i := by
  unfold decodeHost at h
  split at h
  · split at h
    · rename_i hop; rw [← HostOp.opcode_of_ofOpcode hop]; exact decodeHostOperands_ok h
    · cases h
  · cases h

/-- An internal operation's operands are read whole (R72). -/
theorem decodeInternalOperands_ok {op : InternalOp} {operands : List Tok} {i : Instr}
    (h : decodeInternalOperands op operands = .ok i) : EncodedIn .internal (.byte op.code :: operands) i := by
  cases op with
  | setMessageRate | pollMessage | feed =>
    simp only [decodeInternalOperands] at h
    split at h
    · cases h; exact ⟨trivial, rfl, rfl⟩
    · cases h
  | sendFrame =>
    simp only [decodeInternalOperands] at h
    split at h
    · obtain ⟨payload, rfl, hfits, rfl⟩ := decodePayload_ok h; exact ⟨hfits, rfl, rfl⟩
    · cases h
  | disableDefaultNmea | waitPending | dispatch => obtain ⟨rfl, rfl⟩ := noOperands_ok h; exact ⟨trivial, rfl, rfl⟩

/-- What decodes as an internal operation (R72). -/
theorem decodeInternal_ok {toks : List Tok} {i : Instr} (h : decodeInternal toks = .ok i) : EncodedIn .internal toks i := by
  unfold decodeInternal at h
  split at h
  · split at h
    · rename_i hop; rw [← InternalOp.code_of_ofCode hop]; exact decodeInternalOperands_ok h
    · cases h
  · cases h

/-- Whatever row of R70 a received frame belongs to, the row encodes to that frame: five rows fix the key that HANDLE's table
matched (spec/44_dispatch.md R136), the sixth carries it. -/
theorem rxInstr_encodedIn {payload : List Byte} (hfits : payload.length ≤ 65535) (cls id ckA ckB : Byte) :
    EncodedIn .rx (byteToks (wireFrame cls id payload ckA ckB)) (rxInstr cls id payload ckA ckB) := by
  obtain ⟨-, rfl, rfl⟩ | ⟨-, rfl, rfl⟩ | ⟨-, rfl, rfl⟩ | ⟨-, rfl, rfl⟩ | ⟨-, rfl, rfl⟩ | hother := frameKind_cases cls id
  iterate 5 exact ⟨hfits, rfl, rfl⟩
  rw [rxInstr_of_other hother]
  exact ⟨⟨hfits, hother⟩, rfl, rfl⟩

/-- Settles O13: in the two opcode spaces the operand readers give the tokens back, in the two frame spaces the frame's row does. -/
theorem encodeUndoesDecode : Obligations.EncodeUndoesDecode := by
  intro space toks i h
  cases space with
  | host => exact decodeHost_ok h
  | internal => exact decodeInternal_ok h
  | rx =>
    obtain ⟨cls, id, payload, ckA, ckB, hfits, rfl, rfl⟩ := decodeRx_ok h
    exact rxInstr_encodedIn hfits cls id ckA ckB
  | tx =>
    obtain ⟨cls, id, payload, -, rfl, htx⟩ := decodeTx_ok h
    exact txInstr_ok htx

/-- Settles O11: the words are literals and the decoder runs on them. -/
theorem writtenOutWordsDecode : Obligations.WrittenOutWordsDecode := by
  unfold Obligations.WrittenOutWordsDecode
  decide

end Sys2Proof
end

section
/-! PROOFS. What the host commands that run no pump leave alone (spec/43_session.md R111 to R117, R122 to R128); where FEED stops
(spec/60_exceptions.md R163); and that the machine after reset meets the invariant (spec/10_state.md R38 to R40). -/

namespace Sys2Proof.Machine

/-! ### Commands that run no pump -/

/-- BIND is refused with an event and a result, or it runs (R111, R113). -/
theorem commandBind_cases (s : State) : ObserverFrame s (commandBind s) ∨ commandBind s = bind s := by
  rcases refusedAtAcceptance_cases .bind s with hr | hr | ⟨hr, -, -⟩
  · rw [commandBind, acceptThen_of_some hr]; exact .inl (.raise_answer ..)
  · rw [commandBind, acceptThen_of_some hr]; exact .inl (.raise_answer ..)
  · exact .inr (acceptThen_of_none hr bind)

/-- A host command that runs no pump does what the observer may do in a notification, or it is BIND and runs. -/
theorem exec_plain_cases {i : Instr} {s t : State} (hi : i.space = .host) (hinit : i ≠ .initEngine) (hprocess : i ≠ .process)
    (hstatus : ∀ r, i ≠ .subscribeStatus r) (htimeutc : ∀ r, i ≠ .subscribeTimeutc r) (h : exec i s = .next t) :
    ObserverFrame s t ∨ i = .bind ∧ t = bind s := by
  cases i with
  | bind => cases h; exact (commandBind_cases s).imp_right fun e => ⟨rfl, e⟩
  | attachObserver o => cases h; exact .inl (commandAttachObserver_frame o s)
  | detachObserver => cases h; exact .inl (commandDetachObserver_frame s)
  | setChecksumPolicy p => cases h; exact .inl (commandSetChecksumPolicy_frame p s)
  | requestVersion | requestStatus | requestTimeutc => cases h; exact .inl (commandRequest_frame ..)
  | readVersion => cases h; exact .inl (commandReadVersion_frame s)
  | readTimeutc => cases h; exact .inl (commandReadTimeutc_frame s)
  | readStatus => cases h; exact .inl (commandReadStatus_frame s)
  | readInitialized => cases h; exact .inl (commandReadInitialized_frame s)
  | initEngine => exact absurd rfl hinit
  | process => exact absurd rfl hprocess
  | subscribeStatus r => exact absurd rfl (hstatus r)
  | subscribeTimeutc r => exact absurd rfl (htimeutc r)
  | _ => cases hi

/-- Settles O56: the observer's frame holds all of it (`exec_plain_cases`), and BIND's rule writes E_BOUND, P_STATE and P_IDX
(R114). -/
theorem plainCommandsLeaveParserAndSnapshots : Obligations.PlainCommandsLeaveParserAndSnapshots := by
  intro i s t hi hinit hprocess hstatus htimeutc h
  obtain hf | ⟨rfl, rfl⟩ := exec_plain_cases hi hinit hprocess hstatus htimeutc h
  · exact ⟨hf.cfg, hf.ver, hf.tu, hf.st, hf.pending, hf.eState, hf.waitT0, hf.wait, hf.rx, hf.pumps, hf.clk, hf.ticks,
      hf.obsScript, hf.hostQ, hf.opLatch, hf.notes, hf.inNotify, fun k => by rw [hf.parser], by rw [hf.parser],
      fun _ => hf.parser⟩
  · exact ⟨rfl, rfl, rfl, rfl, rfl, rfl, rfl, rfl, rfl, rfl, rfl, rfl, rfl, rfl, rfl, rfl, rfl, fun _ => rfl, rfl,
      fun hne => absurd rfl hne⟩

/-! ### FEED -/

/-- Settles O24: FEED counts the bytes before it looks at the parser. -/
theorem feedBeyondTheReadyBytesIsRefused : Obligations.FeedBeyondTheReadyBytesIsRefused := by
  intro s n hn
  show execFeed n s = _
  rw [execFeed, if_neg (Nat.not_le.mpr hn)]

/-! ### The machine after reset -/

theorem storedString_nil (n : Nat) : storedString n [] := ⟨Nat.zero_le n, nofun⟩

/-- PBUF lists no offset, the parser is at WaitHeader1, and the snapshots are empty. -/
theorem bufferInv_resetWith (cfg : Config) : BufferInv (State.resetWith cfg) where
  pbufCanonical := rfl
  pbufInside := nofun
  inBounds := rfl
  tuTimeWidth := Nat.two_pow_pos _
  stTimeWidth := Nat.two_pow_pos _
  swString := storedString_nil _
  hwString := storedString_nil _
  ext0String := storedString_nil _
  ext1String := storedString_nil _
  ext2String := storedString_nil _
  ext3String := storedString_nil _

/-- The engine is Uninitialized, in no wait and in no notification. -/
theorem sessionInv_resetWith (cfg : Config) : SessionInv none (State.resetWith cfg) where
  notNotifying := rfl
  awaiting := ⟨nofun, nofun⟩
  started := fun h => absurd rfl h
  waitT0Width := Nat.two_pow_pos _

/-- Settles O50: both parts of the invariant, and nothing pending outside a wait. -/
theorem resetMeetsTheInvariant : Obligations.ResetMeetsTheInvariant := fun cfg =>
  .of_parts (bufferInv_resetWith cfg) (sessionInv_resetWith cfg) (fun _ => rfl) fun h => absurd rfl h

end Sys2Proof.Machine
end
